-- ==== Sys2Proof/Word.lean ====
section
/-! DEFINITION. The word types of the core (00_scope.md R7, R9, R10, R11): all values are unsigned. -/

namespace Sys2Proof

/-- A register or memory byte (R20, R50). -/
abbrev Byte := BitVec 8

/-- A 16-bit value: `PC`, `I`, a stack entry, an instruction word (R23, R27, R35, R70). -/
abbrev Word := BitVec 16

/-- A 4-bit register number `x` or `y`; 15 is `VF` (R73). -/
abbrev RegIdx := BitVec 4

/-- A 4-bit row count `n` (R73). -/
abbrev Nibble := BitVec 4

/-- A 12-bit address field `nnn` (R73). -/
abbrev Addr := BitVec 12

/-- The display, 32 rows of 64 one-bit cells: cell (r, c) is bit `c` of row `r`, 1 = on (R37; log 10). -/
abbrev Display := Vector (BitVec 64) 32

/-- The keypad snapshot, bit k is key k, 1 = pressed (R38). -/
abbrev Keypad := BitVec 16

/-- The register number of `VF` (R21). -/
abbrev VF : RegIdx := 15#4

end Sys2Proof
end

