-- ==== Sys2Proof/Syntax.lean ====
section
/-! DEFINITION. The instructions: one constructor per row of spec/opcode_table.json (30_encoding.md R82). -/

namespace Sys2Proof

/-- An instruction with its decoded operand fields (30_encoding.md R72, R82), in the table's order. -/
inductive Instr where
  /-- 00E0 `CLS` (R190). -/
  | cls
  /-- 00EE `RET` (R120). -/
  | ret
  /-- 1nnn `JP addr` (R121). -/
  | jp (nnn : Addr)
  /-- 2nnn `CALL addr` (R122). -/
  | call (nnn : Addr)
  /-- 3xkk `SE Vx, byte` (R123). -/
  | seByte (x : RegIdx) (kk : Byte)
  /-- 4xkk `SNE Vx, byte` (R124). -/
  | sneByte (x : RegIdx) (kk : Byte)
  /-- 5xy0 `SE Vx, Vy` (R125). -/
  | seReg (x y : RegIdx)
  /-- 6xkk `LD Vx, byte` (R142). -/
  | ldByte (x : RegIdx) (kk : Byte)
  /-- 7xkk `ADD Vx, byte` (R143). -/
  | addByte (x : RegIdx) (kk : Byte)
  /-- 8xy0 `LD Vx, Vy` (R144). -/
  | ldReg (x y : RegIdx)
  /-- 8xy1 `OR Vx, Vy` (R145). -/
  | orReg (x y : RegIdx)
  /-- 8xy2 `AND Vx, Vy` (R146). -/
  | andReg (x y : RegIdx)
  /-- 8xy3 `XOR Vx, Vy` (R147). -/
  | xorReg (x y : RegIdx)
  /-- 8xy4 `ADD Vx, Vy` (R148). -/
  | addReg (x y : RegIdx)
  /-- 8xy5 `SUB Vx, Vy` (R149). -/
  | subReg (x y : RegIdx)
  /-- 8xy6 `SHR Vx`; the y field is encoded and not read (R150). -/
  | shr (x y : RegIdx)
  /-- 8xy7 `SUBN Vx, Vy` (R151). -/
  | subnReg (x y : RegIdx)
  /-- 8xyE `SHL Vx`; the y field is encoded and not read (R152). -/
  | shl (x y : RegIdx)
  /-- 9xy0 `SNE Vx, Vy` (R126). -/
  | sneReg (x y : RegIdx)
  /-- Annn `LD I, addr` (R170). -/
  | ldI (nnn : Addr)
  /-- Bnnn `JP V0, addr` (R127). -/
  | jpV0 (nnn : Addr)
  /-- Cxkk `RND Vx, byte` (R153). -/
  | rnd (x : RegIdx) (kk : Byte)
  /-- Dxyn `DRW Vx, Vy, nibble` (R191). -/
  | drw (x y : RegIdx) (n : Nibble)
  /-- Ex9E `SKP Vx` (R210). -/
  | skp (x : RegIdx)
  /-- ExA1 `SKNP Vx` (R211). -/
  | sknp (x : RegIdx)
  /-- Fx07 `LD Vx, DT` (R212). -/
  | ldVxDT (x : RegIdx)
  /-- Fx0A `LD Vx, K` (R213). -/
  | ldVxK (x : RegIdx)
  /-- Fx15 `LD DT, Vx` (R214). -/
  | ldDTVx (x : RegIdx)
  /-- Fx18 `LD ST, Vx` (R215). -/
  | ldSTVx (x : RegIdx)
  /-- Fx1E `ADD I, Vx` (R171). -/
  | addI (x : RegIdx)
  /-- Fx29 `LD F, Vx` (R172). -/
  | ldF (x : RegIdx)
  /-- Fx33 `LD B, Vx` (R173). -/
  | ldB (x : RegIdx)
  /-- Fx55 `LD [I], Vx` (R174). -/
  | storeRegs (x : RegIdx)
  /-- Fx65 `LD Vx, [I]` (R175). -/
  | loadRegs (x : RegIdx)
  /-- Any word no other row selects, `.word w`: the no-op (R230). -/
  | nop (w : Word)
  deriving DecidableEq, Repr

end Sys2Proof
end

