-- ==== Sys2Proof/WellFormed.lean ====
section
/-! DEFINITION. Which instruction terms stand for a word.
Every field of Instr has exactly the width of its encoding field (30_encoding.md R72), so the only check is that the
word of a no-op is an undecoded word of R79 (log 8). -/

namespace Sys2Proof

/-- `w` is one of the undecoded words listed in 30_encoding.md R79. -/
def undecoded (w : Word) : Bool :=
  let op := w.toNat / 0x1000
  let f := w.toNat % 0x10
  let f8 := w.toNat % 0x100
  (op == 0x0 && w != 0x00E0#16 && w != 0x00EE#16)
    || (op == 0x5 && f != 0)
    || (op == 0x8 && (f == 0x8 || f == 0x9 || f == 0xA || f == 0xB || f == 0xC || f == 0xD || f == 0xF))
    || (op == 0x9 && f != 0)
    || (op == 0xE && f8 != 0x9E && f8 != 0xA1)
    || (op == 0xF && f8 != 0x07 && f8 != 0x0A && f8 != 0x15 && f8 != 0x18 && f8 != 0x1E && f8 != 0x29
        && f8 != 0x33 && f8 != 0x55 && f8 != 0x65)

/-- The instruction term stands for a word: a no-op holds an undecoded word (R79, R82 row 35). -/
def Instr.wf : Instr → Bool
  | .nop w => undecoded w
  | .cls | .ret | .jp _ | .call _ | .seByte _ _ | .sneByte _ _ | .seReg _ _ | .ldByte _ _ | .addByte _ _
  | .ldReg _ _ | .orReg _ _ | .andReg _ _ | .xorReg _ _ | .addReg _ _ | .subReg _ _ | .shr _ _ | .subnReg _ _
  | .shl _ _ | .sneReg _ _ | .ldI _ | .jpV0 _ | .rnd _ _ | .drw _ _ _ | .skp _ | .sknp _ | .ldVxDT _ | .ldVxK _
  | .ldDTVx _ | .ldSTVx _ | .addI _ | .ldF _ | .ldB _ | .storeRegs _ | .loadRegs _ => true

end Sys2Proof
end

