-- ==== Sys2Proof/Decode.lean ====
section
/-! DEFINITION. The decoder (30_encoding.md R72 to R83), total on words and rejecting truncated bytes by name, and after
it the encoder, the opcode map R82 as data, and the table word of the fixed interface. -/

namespace Sys2Proof

/-! ### Fields (R72) -/

/-- `op = w[15:12]`, the primary selector. -/
def fieldOp (w : Word) : BitVec 4 := w.extractLsb' 12 4
/-- `x = w[11:8]`. -/
def fieldX (w : Word) : RegIdx := w.extractLsb' 8 4
/-- `y = w[7:4]`. -/
def fieldY (w : Word) : RegIdx := w.extractLsb' 4 4
/-- `n = w[3:0]`, also the selector `f`. -/
def fieldN (w : Word) : Nibble := w.extractLsb' 0 4
/-- `kk = w[7:0]`, also the selector `f8`. -/
def fieldKK (w : Word) : Byte := w.extractLsb' 0 8
/-- `nnn = w[11:0]`. -/
def fieldNNN (w : Word) : Addr := w.extractLsb' 0 12

/-! ### The dispatch tree (R81) -/

/-- Branch 0x0: the whole word selects (R77, R78). -/
def decode0 (w : Word) : Instr :=
  if w = 0x00E0#16 then .cls else if w = 0x00EE#16 then .ret else .nop w

/-- Branch 0x8: the low nibble selects (R75). -/
def decode8 (w : Word) : Instr :=
  match (fieldN w).toNat with
  | 0x0 => .ldReg (fieldX w) (fieldY w)
  | 0x1 => .orReg (fieldX w) (fieldY w)
  | 0x2 => .andReg (fieldX w) (fieldY w)
  | 0x3 => .xorReg (fieldX w) (fieldY w)
  | 0x4 => .addReg (fieldX w) (fieldY w)
  | 0x5 => .subReg (fieldX w) (fieldY w)
  | 0x6 => .shr (fieldX w) (fieldY w)
  | 0x7 => .subnReg (fieldX w) (fieldY w)
  | 0xE => .shl (fieldX w) (fieldY w)
  | _ => .nop w

/-- Branch 0xE: the low byte selects (R77, R81). -/
def decodeE (w : Word) : Instr :=
  match (fieldKK w).toNat with
  | 0x9E => .skp (fieldX w)
  | 0xA1 => .sknp (fieldX w)
  | _ => .nop w

/-- Branch 0xF: the low byte selects (R75). -/
def decodeF (w : Word) : Instr :=
  match (fieldKK w).toNat with
  | 0x07 => .ldVxDT (fieldX w)
  | 0x0A => .ldVxK (fieldX w)
  | 0x15 => .ldDTVx (fieldX w)
  | 0x18 => .ldSTVx (fieldX w)
  | 0x1E => .addI (fieldX w)
  | 0x29 => .ldF (fieldX w)
  | 0x33 => .ldB (fieldX w)
  | 0x55 => .storeRegs (fieldX w)
  | 0x65 => .loadRegs (fieldX w)
  | _ => .nop w

/-- The decoder of R81: every word selects exactly one handler (R83). -/
def decodeWord (w : Word) : Instr :=
  match (fieldOp w).toNat with
  | 0x0 => decode0 w
  | 0x1 => .jp (fieldNNN w)
  | 0x2 => .call (fieldNNN w)
  | 0x3 => .seByte (fieldX w) (fieldKK w)
  | 0x4 => .sneByte (fieldX w) (fieldKK w)
  | 0x5 => if fieldN w = 0#4 then .seReg (fieldX w) (fieldY w) else .nop w
  | 0x6 => .ldByte (fieldX w) (fieldKK w)
  | 0x7 => .addByte (fieldX w) (fieldKK w)
  | 0x8 => decode8 w
  | 0x9 => if fieldN w = 0#4 then .sneReg (fieldX w) (fieldY w) else .nop w
  | 0xA => .ldI (fieldNNN w)
  | 0xB => .jpV0 (fieldNNN w)
  | 0xC => .rnd (fieldX w) (fieldKK w)
  | 0xD => .drw (fieldX w) (fieldY w) (fieldN w)
  | 0xE => decodeE w
  | _ => decodeF w

/-! ### Bytes (R54, R70) -/

/-- The word of two bytes, the first one in bits 15:8 (R54). -/
def wordOfBytes (hi lo : Byte) : Word := hi ++ lo

/-- The byte of a word that lies at the lower address (R54). -/
def highByte (w : Word) : Byte := w.extractLsb' 8 8

/-- The byte of a word that lies at the higher address (R54). -/
def lowByte (w : Word) : Byte := w.extractLsb' 0 8

/-- A word as the hardware stores it: high byte first (R54). -/
def bytesOfWord (w : Word) : List Byte := [highByte w, lowByte w]

/-- Why bytes hold no instruction. -/
inductive DecodeError where
  /-- Fewer than the two bytes every instruction has (R70). -/
  | truncated
  deriving DecidableEq, Repr

/-- Decode from a list of bytes: the instruction and the bytes after it. -/
def decode : List Byte → Except DecodeError (Instr × List Byte)
  | hi :: lo :: rest => .ok (decodeWord (wordOfBytes hi lo), rest)
  | _ => .error .truncated

/-- The fixed interface's table word: bits `nbits-1:0` of `w`, bit 0 the least significant bit of the one instruction
word (opcode_table.json), laid out high byte first and decoded. -/
def decodeTableWord (nbits w : Nat) : Option Instr :=
  match decode (bytesOfWord (BitVec.ofNat 16 (w % 2 ^ nbits))) with
  | .ok (i, _) => some i
  | .error _ => none

/-! ### The encoder (R71, R84) -/

/-- The word of an instruction: the match of its row with its fields placed as in R71. -/
def encode : Instr → Word
  | .cls => 0x00E0#16
  | .ret => 0x00EE#16
  | .jp nnn => 0x1#4 ++ nnn
  | .call nnn => 0x2#4 ++ nnn
  | .seByte x kk => 0x3#4 ++ x ++ kk
  | .sneByte x kk => 0x4#4 ++ x ++ kk
  | .seReg x y => 0x5#4 ++ x ++ y ++ 0x0#4
  | .ldByte x kk => 0x6#4 ++ x ++ kk
  | .addByte x kk => 0x7#4 ++ x ++ kk
  | .ldReg x y => 0x8#4 ++ x ++ y ++ 0x0#4
  | .orReg x y => 0x8#4 ++ x ++ y ++ 0x1#4
  | .andReg x y => 0x8#4 ++ x ++ y ++ 0x2#4
  | .xorReg x y => 0x8#4 ++ x ++ y ++ 0x3#4
  | .addReg x y => 0x8#4 ++ x ++ y ++ 0x4#4
  | .subReg x y => 0x8#4 ++ x ++ y ++ 0x5#4
  | .shr x y => 0x8#4 ++ x ++ y ++ 0x6#4
  | .subnReg x y => 0x8#4 ++ x ++ y ++ 0x7#4
  | .shl x y => 0x8#4 ++ x ++ y ++ 0xE#4
  | .sneReg x y => 0x9#4 ++ x ++ y ++ 0x0#4
  | .ldI nnn => 0xA#4 ++ nnn
  | .jpV0 nnn => 0xB#4 ++ nnn
  | .rnd x kk => 0xC#4 ++ x ++ kk
  | .drw x y n => 0xD#4 ++ x ++ y ++ n
  | .skp x => 0xE#4 ++ x ++ 0x9E#8
  | .sknp x => 0xE#4 ++ x ++ 0xA1#8
  | .ldVxDT x => 0xF#4 ++ x ++ 0x07#8
  | .ldVxK x => 0xF#4 ++ x ++ 0x0A#8
  | .ldDTVx x => 0xF#4 ++ x ++ 0x15#8
  | .ldSTVx x => 0xF#4 ++ x ++ 0x18#8
  | .addI x => 0xF#4 ++ x ++ 0x1E#8
  | .ldF x => 0xF#4 ++ x ++ 0x29#8
  | .ldB x => 0xF#4 ++ x ++ 0x33#8
  | .storeRegs x => 0xF#4 ++ x ++ 0x55#8
  | .loadRegs x => 0xF#4 ++ x ++ 0x65#8
  | .nop w => w

/-- The bytes of an instruction, as the hardware stores them (R54). -/
def encodeBytes (i : Instr) : List Byte := bytesOfWord (encode i)

/-! ### The opcode map as data (R82) -/

/-- One row of R82: its number, mask and match. -/
structure Row where
  number : Nat
  mask : Word
  pattern : Word
  deriving DecidableEq, Repr

/-- `w` selects the row (R82). -/
def Row.selectedBy (r : Row) (w : Word) : Bool := (w &&& r.mask) == r.pattern

/-- Rows 1 to 18 of R82. -/
def opcodeRowsLow : List Row := [
  ⟨1, 0xFFFF#16, 0x00E0#16⟩,  -- 00E0 CLS
  ⟨2, 0xFFFF#16, 0x00EE#16⟩,  -- 00EE RET
  ⟨3, 0xF000#16, 0x1000#16⟩,  -- 1nnn JP addr
  ⟨4, 0xF000#16, 0x2000#16⟩,  -- 2nnn CALL addr
  ⟨5, 0xF000#16, 0x3000#16⟩,  -- 3xkk SE Vx, byte
  ⟨6, 0xF000#16, 0x4000#16⟩,  -- 4xkk SNE Vx, byte
  ⟨7, 0xF00F#16, 0x5000#16⟩,  -- 5xy0 SE Vx, Vy
  ⟨8, 0xF000#16, 0x6000#16⟩,  -- 6xkk LD Vx, byte
  ⟨9, 0xF000#16, 0x7000#16⟩,  -- 7xkk ADD Vx, byte
  ⟨10, 0xF00F#16, 0x8000#16⟩,  -- 8xy0 LD Vx, Vy
  ⟨11, 0xF00F#16, 0x8001#16⟩,  -- 8xy1 OR Vx, Vy
  ⟨12, 0xF00F#16, 0x8002#16⟩,  -- 8xy2 AND Vx, Vy
  ⟨13, 0xF00F#16, 0x8003#16⟩,  -- 8xy3 XOR Vx, Vy
  ⟨14, 0xF00F#16, 0x8004#16⟩,  -- 8xy4 ADD Vx, Vy
  ⟨15, 0xF00F#16, 0x8005#16⟩,  -- 8xy5 SUB Vx, Vy
  ⟨16, 0xF00F#16, 0x8006#16⟩,  -- 8xy6 SHR Vx {, Vy}
  ⟨17, 0xF00F#16, 0x8007#16⟩,  -- 8xy7 SUBN Vx, Vy
  ⟨18, 0xF00F#16, 0x800E#16⟩  -- 8xyE SHL Vx {, Vy}
  ]

/-- Rows 19 to 34 of R82. -/
def opcodeRowsHigh : List Row := [
  ⟨19, 0xF00F#16, 0x9000#16⟩,  -- 9xy0 SNE Vx, Vy
  ⟨20, 0xF000#16, 0xA000#16⟩,  -- Annn LD I, addr
  ⟨21, 0xF000#16, 0xB000#16⟩,  -- Bnnn JP V0, addr
  ⟨22, 0xF000#16, 0xC000#16⟩,  -- Cxkk RND Vx, byte
  ⟨23, 0xF000#16, 0xD000#16⟩,  -- Dxyn DRW Vx, Vy, nibble
  ⟨24, 0xF0FF#16, 0xE09E#16⟩,  -- Ex9E SKP Vx
  ⟨25, 0xF0FF#16, 0xE0A1#16⟩,  -- ExA1 SKNP Vx
  ⟨26, 0xF0FF#16, 0xF007#16⟩,  -- Fx07 LD Vx, DT
  ⟨27, 0xF0FF#16, 0xF00A#16⟩,  -- Fx0A LD Vx, K
  ⟨28, 0xF0FF#16, 0xF015#16⟩,  -- Fx15 LD DT, Vx
  ⟨29, 0xF0FF#16, 0xF018#16⟩,  -- Fx18 LD ST, Vx
  ⟨30, 0xF0FF#16, 0xF01E#16⟩,  -- Fx1E ADD I, Vx
  ⟨31, 0xF0FF#16, 0xF029#16⟩,  -- Fx29 LD F, Vx
  ⟨32, 0xF0FF#16, 0xF033#16⟩,  -- Fx33 LD B, Vx
  ⟨33, 0xF0FF#16, 0xF055#16⟩,  -- Fx55 LD [I], Vx
  ⟨34, 0xF0FF#16, 0xF065#16⟩  -- Fx65 LD Vx, [I]
  ]

/-- The 34 instruction rows of R82. -/
def opcodeRows : List Row := opcodeRowsLow ++ opcodeRowsHigh

/-- The number in R82 of the row a constructor stands for; 35 is the no-op. -/
def Instr.rowNumber : Instr → Nat
  | .cls => 1
  | .ret => 2
  | .jp _ => 3
  | .call _ => 4
  | .seByte _ _ => 5
  | .sneByte _ _ => 6
  | .seReg _ _ => 7
  | .ldByte _ _ => 8
  | .addByte _ _ => 9
  | .ldReg _ _ => 10
  | .orReg _ _ => 11
  | .andReg _ _ => 12
  | .xorReg _ _ => 13
  | .addReg _ _ => 14
  | .subReg _ _ => 15
  | .shr _ _ => 16
  | .subnReg _ _ => 17
  | .shl _ _ => 18
  | .sneReg _ _ => 19
  | .ldI _ => 20
  | .jpV0 _ => 21
  | .rnd _ _ => 22
  | .drw _ _ _ => 23
  | .skp _ => 24
  | .sknp _ => 25
  | .ldVxDT _ => 26
  | .ldVxK _ => 27
  | .ldDTVx _ => 28
  | .ldSTVx _ => 29
  | .addI _ => 30
  | .ldF _ => 31
  | .ldB _ => 32
  | .storeRegs _ => 33
  | .loadRegs _ => 34
  | .nop _ => 35

end Sys2Proof
end

