-- ==== Sys2Proof/Config.lean ====
section
/-! DEFINITION. The parameters of 00_scope.md R8 as types and free values.
The values this hardware takes for `FONT_BASE`, `FONT_GLYPHS` and `FLAG_ORDER` stand in Machine/Params.lean. -/

namespace Sys2Proof.Config

/-- `FLAG_ORDER` (R8, 42_alu.md R141): the order of the two writes of a flag-writing ALU instruction. -/
inductive FlagOrder where
  /-- `V[15] <- c; V[x] <- r`: VF ends as the result when x is F. -/
  | flagThenResult
  /-- `V[x] <- r; V[15] <- c`: VF ends as the flag when x is F. -/
  | resultThenFlag
  deriving DecidableEq, Repr

/-- `RNG` (R8, 10_state.md R36, OPEN): the byte that draw number `n` of a session constructed with `seed` returns.
A FREE VALUE: it has no body, so nothing can be proved of a byte it returns (log 1). -/
opaque drawByte (seed n : Nat) : Byte

end Sys2Proof.Config
end

