-- ==== Sys2Proof/Machine/Params.lean ====
section
/-! DEFINITION. The parameter values this hardware takes (00_scope.md R8): `FONT_BASE`, `FONT_GLYPHS`, `FLAG_ORDER`. -/

namespace Sys2Proof.Machine

/-- `FONT_BASE` (R8, decision D12). -/
def fontBase : Nat := 0x050

/-- Glyphs 0 to 7 of `FONT_GLYPHS`, top row first (10_state.md R39). -/
def fontGlyphsLow : List Byte := [
  0xF0, 0x90, 0x90, 0x90, 0xF0,
  0x20, 0x60, 0x20, 0x20, 0x70,
  0xF0, 0x10, 0xF0, 0x80, 0xF0,
  0xF0, 0x10, 0xF0, 0x10, 0xF0,
  0x90, 0x90, 0xF0, 0x10, 0x10,
  0xF0, 0x80, 0xF0, 0x10, 0xF0,
  0xF0, 0x80, 0xF0, 0x90, 0xF0,
  0xF0, 0x10, 0x20, 0x40, 0x40]

/-- Glyphs 8 to F of `FONT_GLYPHS`, top row first (10_state.md R39). -/
def fontGlyphsHigh : List Byte := [
  0xF0, 0x90, 0xF0, 0x90, 0xF0,
  0xF0, 0x90, 0xF0, 0x10, 0xF0,
  0xF0, 0x90, 0xF0, 0x90, 0x90,
  0xE0, 0x90, 0xE0, 0x90, 0xE0,
  0xF0, 0x80, 0x80, 0x80, 0xF0,
  0xE0, 0x90, 0x90, 0x90, 0xE0,
  0xF0, 0x80, 0xF0, 0x80, 0xF0,
  0xF0, 0x80, 0xF0, 0x80, 0x80]

/-- `FONT_GLYPHS`: glyph `d` is bytes `5 * d` to `5 * d + 4` (R39). -/
def fontGlyphs : List Byte := fontGlyphsLow ++ fontGlyphsHigh

/-- `FLAG_ORDER` (R8, 42_alu.md R141, decision D10; log 4). -/
def flagOrder : Config.FlagOrder := .flagThenResult

end Sys2Proof.Machine
end

