-- ==== Sys2Proof/Machine/State.lean ====
section
/-! DEFINITION. The state of the core as plain data (10_state.md), why a step can stop, and the state after reset. -/

namespace Sys2Proof.Machine

/-- `PHASE`, the cycle-controller state (10_state.md R33). -/
inductive Phase where
  | idle
  | fetched
  | executed
  | halted
  deriving DecidableEq, Repr

/-- The five fault causes of 10_state.md R32; `FAULT` holds their codes. -/
inductive FaultCause where
  | stackOverflow
  | stackUnderflow
  | fetchBounds
  | dataBounds
  | keyRange
  deriving DecidableEq, Repr

/-- `rng_state` (10_state.md R36): the seed of the session and how many bytes have been drawn.
The spec calls it opaque; these two numbers are the model's own form of it (log 1). -/
structure Rng where
  seed : Nat
  drawn : Nat
  deriving DecidableEq, Repr

/-- `M` (20_memory.md R50) in one canonical form: addresses strictly rising and below 4096, and no cell equal to what an
unlisted address reads as (`unlistedByte`, `Memory.wf` of Machine/Ops.lean). -/
abbrev Memory := List Host.Cell

/-- Every state element of 10_state.md, each under its own name. -/
structure State where
  /-- `V[0]` to `V[15]` (R20). -/
  v : Vector Byte 16
  /-- `I` (R27). -/
  i : Word
  /-- `PC` (R23). -/
  pc : Word
  /-- `SP`, legal 0 to 16 (R28). -/
  sp : BitVec 5
  /-- `STACK[0]` to `STACK[15]` (R35). -/
  stack : Vector Word 16
  /-- `DT` (R29). -/
  dt : Byte
  /-- `ST` (R30). -/
  st : Byte
  /-- `OPCODE` (R31). -/
  opcode : Word
  /-- `FAULT`, 0 or the code of a cause (R32). -/
  fault : BitVec 3
  /-- `PHASE` (R33). -/
  phase : Phase
  /-- `PIX` (R37). -/
  pix : Display
  /-- `KEY` (R38). -/
  key : Keypad
  /-- `M` (20_memory.md R50). -/
  mem : Memory
  /-- `rng_state` (R36). -/
  rng : Rng
  deriving DecidableEq, Repr

/-- Why the machine stops with a fault of the model: never.
Every fault of the spec (60_exceptions.md R240) is a NEXT state with `FAULT` set and `PHASE` Halted (R244), so no constructor is needed and
nobody raises one (safe: nothing stops). -/
inductive Fault where
  deriving DecidableEq, Repr

/-- Why an instruction has no meaning in a state. -/
inductive Refusal where
  /-- Raised by `exec` for an instruction whose meaning is not written yet; no arm raises it now (safe). -/
  | notModelled (mnemonic : String)
  /-- Raised by CALL and RET when `SP` holds 17 to 31, which no run reaches: 93_implementation_defined.md K24 says
  refuse (safe: the model stops; log 2). -/
  | stackPointerOutOfRange
  deriving DecidableEq, Repr

/-- The outcome of an instruction or of a step. -/
abbrev Result := Host.Outcome State Fault Refusal

/-- The state after construction (10_state.md R41, 70_reset_and_hazards.md R270), with seed 0 (log 1).
Memory lists nothing: an unlisted address reads as its reset content, the font table or 0 (log 3). -/
def State.reset : State where
  v := Vector.replicate 16 0#8
  i := 0#16
  pc := 0x200#16
  sp := 0#5
  stack := Vector.replicate 16 0#16
  dt := 0#8
  st := 0#8
  opcode := 0#16
  fault := 0#3
  phase := .idle
  pix := Vector.replicate 32 0#64
  key := 0#16
  mem := []
  rng := { seed := 0, drawn := 0 }

end Sys2Proof.Machine
end

