-- ==== Sys2Proof/Machine/Ops.lean ====
section
/-! DEFINITION. The named operations over registers, memory, stack, random source and faults (00_scope.md R12), each written once. -/

namespace Sys2Proof.Machine

/-! ### Memory (20_memory.md) -/

/-- What an address that memory does not list reads as: its content after reset (10_state.md R39, R41), the font table
at `FONT_BASE` and 0 everywhere else (log 3). -/
def unlistedByte (a : Nat) : Byte :=
  if fontBase ≤ a then fontGlyphs.getD (a - fontBase) 0#8 else 0#8

/-- The byte at address `a` (R50). -/
def Memory.read : Memory → Nat → Byte
  | [], a => unlistedByte a
  | (b, u) :: m, a => if a = b then u else Memory.read m a

/-- Put a byte into the list and keep the list canonical: a byte equal to what an unlisted address reads as is not listed. -/
def Memory.insert : Memory → Nat → Byte → Memory
  | [], a, u => if u = unlistedByte a then [] else [(a, u)]
  | (b, w) :: m, a, u =>
    if a < b then (if u = unlistedByte a then (b, w) :: m else (a, u) :: (b, w) :: m)
    else if a = b then (if u = unlistedByte a then m else (a, u) :: m)
    else (b, w) :: Memory.insert m a u

/-- Write the byte at address `a` (R58).
An address above 0xFFF does not exist (R52): no handler reaches it, since its range check comes first, and nothing is
written there (log 3). -/
def Memory.write (m : Memory) (a : Nat) (u : Byte) : Memory :=
  if a < 4096 then Memory.insert m a u else m

/-- The list is canonical from address `lo` up. -/
def Memory.wfFrom : Nat → Memory → Bool
  | _, [] => true
  | lo, (a, u) :: m => decide (lo ≤ a) && decide (a < 4096) && u != unlistedByte a && Memory.wfFrom (a + 1) m

/-- The canonical form: addresses strictly rising, all below 4096, and no byte listed that reads so unlisted. -/
def Memory.wf (m : Memory) : Bool := Memory.wfFrom 0 m

/-! ### One named update per state element -/

/-- `V[x]` (R20): there is no hardwired register. -/
def State.getV (s : State) (x : RegIdx) : Byte := s.v[x.toNat]'x.isLt
/-- `V[x] <- b` (R20). -/
def State.setV (s : State) (x : RegIdx) (b : Byte) : State := { s with v := s.v.set x.toNat b x.isLt }
/-- `I <- w` (R27). -/
def State.setI (s : State) (w : Word) : State := { s with i := w }
/-- `PC <- w` (R12). -/
def State.setPc (s : State) (w : Word) : State := { s with pc := w }
/-- `SP <- d` (R28). -/
def State.setSp (s : State) (d : BitVec 5) : State := { s with sp := d }
/-- The whole `STACK` file replaced (R35). -/
def State.setStack (s : State) (k : Vector Word 16) : State := { s with stack := k }
/-- `DT <- b` (R29). -/
def State.setDt (s : State) (b : Byte) : State := { s with dt := b }
/-- `ST <- b` (R30). -/
def State.setSt (s : State) (b : Byte) : State := { s with st := b }
/-- `OPCODE <- w` (R31). -/
def State.setOpcode (s : State) (w : Word) : State := { s with opcode := w }
/-- `FAULT <- c` (R32). -/
def State.setFault (s : State) (c : BitVec 3) : State := { s with fault := c }
/-- `PHASE <- p` (R33). -/
def State.setPhase (s : State) (p : Phase) : State := { s with phase := p }
/-- The whole display replaced (R37). -/
def State.setPix (s : State) (d : Display) : State := { s with pix := d }
/-- The keypad snapshot replaced (R38). -/
def State.setKey (s : State) (k : Keypad) : State := { s with key := k }
/-- The memory replaced (R50). -/
def State.setMem (s : State) (m : Memory) : State := { s with mem := m }
/-- The random source's state replaced (R36). -/
def State.setRng (s : State) (r : Rng) : State := { s with rng := r }

/-- `MemRead(a, 1)` (R12, R55). -/
def State.readByte (s : State) (a : Nat) : Byte := s.mem.read a
/-- `MemWrite(a, 1, b)` (R12, R55). -/
def State.writeByte (s : State) (a : Nat) (b : Byte) : State := s.setMem (s.mem.write a b)

/-- `KEY[k]`, true = pressed (R38). -/
def State.keyDown (s : State) (k : Nat) : Bool := s.key.getLsbD k

/-- `PIX[r][c]`, true = on (R37); there is no cell outside rows 0 to 31 and columns 0 to 63. -/
def State.pixel (s : State) (r c : Nat) : Bool := if h : r < 32 then s.pix[r].getLsbD c else false

/-! ### Faults (60_exceptions.md R240 to R247) -/

/-- The code `FAULT` holds for a cause (10_state.md R32). -/
def FaultCause.code : FaultCause → BitVec 3
  | .stackOverflow => 1#3
  | .stackUnderflow => 2#3
  | .fetchBounds => 3#3
  | .dataBounds => 4#3
  | .keyRange => 5#3

/-- Fault entry on the state at the start of the cycle (R244): `FAULT <- cause`, `PHASE <- Halted`, nothing else.
There is no vector, no saved pc, no mode and no way back but reset (R244, R246). -/
def enterFault (c : FaultCause) (s : State) : State := (s.setFault c.code).setPhase .halted

/-- `PC <- trunc_16(PC - 2)`: back to the instruction being executed (R104, R213). -/
def rewindPc (s : State) : State := s.setPc (s.pc - 2#16)

/-- Taking a fault in the execute phase (R102, R242, R244): the fetch's `PC` advance is undone, `OPCODE` keeps the
fetched word, and no handler has written anything else before it raises (R245; log 6). -/
def takeFault (c : FaultCause) (s : State) : State := enterFault c (rewindPc s)

/-- A handler's end: the fault its check found, or else the state `t` it computes (R245). -/
def unlessFault (check : Option FaultCause) (s t : State) : Result :=
  match check with
  | some c => .next (takeFault c s)
  | none => .next t

/-- `CheckRange(a, n)` (R12, 20_memory.md R56), on the unbounded sum. -/
def checkRange (a n : Nat) : Option FaultCause :=
  if n > 0 ∧ a + n - 1 > 0xFFF then some .dataBounds else none

/-! ### PC, stack, random source -/

/-- `skip()` (R12, 41_control_flow.md R128). -/
def skip (s : State) : State := s.setPc (s.pc + 2#16)

/-- `if cond: skip()`. -/
def skipIf (cond : Bool) (s : State) : State := if cond then skip s else s

/-- `STACK[SP] <- PC; SP <- SP + 1`, with `SP` at most 15 (R122). -/
def pushPc (s : State) (h : s.sp.toNat < 16) : State :=
  (s.setStack (s.stack.set s.sp.toNat s.pc h)).setSp (s.sp + 1#5)

/-- `SP <- SP - 1; PC <- STACK[SP]`, with `SP` 1 to 16 (R120); the entry is not cleared (R35). -/
def popPc (s : State) (h : s.sp.toNat - 1 < 16) : State :=
  (s.setSp (s.sp - 1#5)).setPc (s.stack[s.sp.toNat - 1]'h)

/-- The byte `draw_byte()` returns next (R36): a free value. -/
def State.nextDraw (s : State) : Byte := Config.drawByte s.rng.seed s.rng.drawn

/-- The draw is consumed (R153). -/
def consumeDraw (s : State) : State := s.setRng { s.rng with drawn := s.rng.drawn + 1 }

end Sys2Proof.Machine
end

