-- ==== Sys2Proof/Machine/Cycle.lean ====
section
/-! DEFINITION. The parts of the cycle around the handler (40_cycle.md R102): fetch, `PC` advance, timer decrement. -/

namespace Sys2Proof.Machine

/-- The fetch check (R103): `PC + 1` must be an address. -/
def checkFetch (s : State) : Option FaultCause := if s.pc.toNat > 0xFFE then some .fetchBounds else none

/-- The word at `PC`, big-endian (R54, R103). -/
def fetchedWord (s : State) : Word := wordOfBytes (s.readByte s.pc.toNat) (s.readByte (s.pc.toNat + 1))

/-- Idle to Fetched (R102): `OPCODE` latched, `PHASE` Fetched, `PC` advanced by 2 before dispatch (R104). -/
def latch (w : Word) (s : State) : State := ((s.setOpcode w).setPhase .fetched).setPc (s.pc + 2#16)

/-- Decrement toward 0 once, never below (R106). -/
def countDown (t : Byte) : Byte := if t.toNat > 0 then t - 1#8 else t

/-- The timer step (R106). -/
def tickTimers (s : State) : State := (s.setDt (countDown s.dt)).setSt (countDown s.st)

/-- The end of a cycle after its handler (R102): a fault has already ended the cycle in Halted, with no timer decrement;
otherwise Executed, the timer step, and back to Idle (R100). -/
def endCycle (s : State) : State :=
  if s.phase = .halted then s else (tickTimers (s.setPhase .executed)).setPhase .idle

end Sys2Proof.Machine
end

