-- ==== Sys2Proof/Machine/Flags.lean ====
section
/-! DEFINITION. Every flag computation (10_state.md R26) and the two writes of a flag-writing ALU instruction (42_alu.md R141).
The collision flag of Dxyn is computed with the drawing in Graphics.lean. -/

namespace Sys2Proof.Machine

/-- Carry of 8xy4: 1 if the unsigned sum exceeds 255 (R148). -/
def carry (a b : Byte) : Bool := decide (a.toNat + b.toNat > 255)

/-- NOT borrow of `a - b`: 1 if `a >= b` (R149, R151). -/
def notBorrow (a b : Byte) : Bool := decide (b.toNat ≤ a.toNat)

/-- The bit a right shift moves out, bit 0 (R150). -/
def lowBit (a : Byte) : Bool := a.getLsbD 0

/-- The bit a left shift moves out, bit 7 (R152). -/
def highBit (a : Byte) : Bool := a.getLsbD 7

/-- The value `VF` takes for a flag (R26). -/
def flagByte (c : Bool) : Byte := if c then 1#8 else 0#8

/-- `write_result_and_flag(x, r, c)` under a given `FLAG_ORDER` (R141). -/
def writeResultAndFlagIn (order : Config.FlagOrder) (x : RegIdx) (r : Byte) (c : Bool) (s : State) : State :=
  match order with
  | .flagThenResult => (s.setV VF (flagByte c)).setV x r
  | .resultThenFlag => (s.setV x r).setV VF (flagByte c)

/-- `write_result_and_flag(x, r, c)` of this hardware (R141; log 4). -/
def writeResultAndFlag (x : RegIdx) (r : Byte) (c : Bool) (s : State) : State :=
  writeResultAndFlagIn flagOrder x r c s

end Sys2Proof.Machine
end

