-- ==== Sys2Proof/Machine/Alu.lean ====
section
/-! DEFINITION. The arithmetic, logic, shift and random handlers (42_alu.md).
Operands are sampled before anything is written (R140): every meaning reads `s`, the state at handler entry. -/

namespace Sys2Proof.Machine

/-- 6xkk (R142). -/
def execLdByte (x : RegIdx) (kk : Byte) (s : State) : Result := .next (s.setV x kk)

/-- 7xkk (R143): no flag. -/
def execAddByte (x : RegIdx) (kk : Byte) (s : State) : Result := .next (s.setV x (s.getV x + kk))

/-- 8xy0 (R144). -/
def execLdReg (x y : RegIdx) (s : State) : Result := .next (s.setV x (s.getV y))

/-- 8xy1 (R145): `VF` untouched. -/
def execOrReg (x y : RegIdx) (s : State) : Result := .next (s.setV x (s.getV x ||| s.getV y))

/-- 8xy2 (R146): `VF` untouched. -/
def execAndReg (x y : RegIdx) (s : State) : Result := .next (s.setV x (s.getV x &&& s.getV y))

/-- 8xy3 (R147): `VF` untouched. -/
def execXorReg (x y : RegIdx) (s : State) : Result := .next (s.setV x (s.getV x ^^^ s.getV y))

/-- 8xy4 (R148). -/
def execAddReg (x y : RegIdx) (s : State) : Result :=
  .next (writeResultAndFlag x (s.getV x + s.getV y) (carry (s.getV x) (s.getV y)) s)

/-- 8xy5 (R149). -/
def execSubReg (x y : RegIdx) (s : State) : Result :=
  .next (writeResultAndFlag x (s.getV x - s.getV y) (notBorrow (s.getV x) (s.getV y)) s)

/-- 8xy6 (R150): the y field is not read. -/
def execShr (x _y : RegIdx) (s : State) : Result :=
  .next (writeResultAndFlag x (s.getV x >>> 1) (lowBit (s.getV x)) s)

/-- 8xy7 (R151). -/
def execSubnReg (x y : RegIdx) (s : State) : Result :=
  .next (writeResultAndFlag x (s.getV y - s.getV x) (notBorrow (s.getV y) (s.getV x)) s)

/-- 8xyE (R152): the y field is not read. -/
def execShl (x _y : RegIdx) (s : State) : Result :=
  .next (writeResultAndFlag x (s.getV x <<< 1) (highBit (s.getV x)) s)

/-- Cxkk (R153): one free byte is drawn and consumed, whatever `kk` is. -/
def execRnd (x : RegIdx) (kk : Byte) (s : State) : Result :=
  .next ((consumeDraw s).setV x (s.nextDraw &&& kk))

end Sys2Proof.Machine
end

