-- ==== Sys2Proof/Machine/Operands.lean ====
section
/-! DEFINITION. Every operand form of the instruction set (30_encoding.md R73, 43_index_memory.md R176): register, immediate byte,
12-bit address, index plus offset, and what a handler computes from them. -/

namespace Sys2Proof.Machine

/-- `zext_16(nnn)` (R73). -/
def addr16 (nnn : Addr) : Word := nnn.setWidth 16

/-- `zext_16(V[x])` (R10). -/
def byte16 (b : Byte) : Word := b.setWidth 16

/-- The effective address of byte `k` of a transfer, `I + k` on unbounded naturals (R176). -/
def effectiveAddr (s : State) (k : Nat) : Nat := s.i.toNat + k

/-- The target of Bnnn (R127). -/
def indexedTarget (s : State) (nnn : Addr) : Word := addr16 nnn + byte16 (s.getV 0#4)

/-- The address of the glyph of digit `d`, not masked: `trunc_16(FONT_BASE + 5 * d)` (R172). -/
def glyphAddr (d : Byte) : Word := BitVec.ofNat 16 (fontBase + 5 * d.toNat)

/-- The hundreds digit (R173). -/
def hundreds (a : Byte) : Byte := BitVec.ofNat 8 (a.toNat / 100)
/-- The tens digit (R173). -/
def tens (a : Byte) : Byte := BitVec.ofNat 8 (a.toNat / 10 % 10)
/-- The ones digit (R173). -/
def ones (a : Byte) : Byte := BitVec.ofNat 8 (a.toNat % 10)

/-- The start column of a sprite, `V[x] mod 64` (R193). -/
def startColumn (s : State) (x : RegIdx) : Nat := (s.getV x).toNat % 64
/-- The start row of a sprite, `V[y] mod 32` (R193). -/
def startRow (s : State) (y : RegIdx) : Nat := (s.getV y).toNat % 32

/-- The key index of a key skip (R217): a fault when `V[x] > 0xF`. -/
def checkKey (s : State) (x : RegIdx) : Option FaultCause :=
  if (s.getV x).toNat > 0xF then some .keyRange else none

/-- The least pressed key, if any (R213, decision D9). -/
def leastKey (s : State) : Option Nat := (List.range 16).find? (fun k => s.keyDown k)

end Sys2Proof.Machine
end

