-- ==== Sys2Proof/Machine/ControlFlow.lean ====
section
/-! DEFINITION. The control-flow handlers (41_control_flow.md).
Each runs in the execute phase, so `PC` already holds the address of its instruction plus 2 (R104). -/

namespace Sys2Proof.Machine

/-- 00EE (R120): fault when `SP = 0`; `SP` above 16 is refused (K24; log 2). -/
def execRet (s : State) : Result :=
  if s.sp = 0#5 then .next (takeFault .stackUnderflow s)
  else if h : s.sp.toNat - 1 < 16 then .next (popPc s h)
  else .refused .stackPointerOutOfRange

/-- 1nnn (R121). -/
def execJp (nnn : Addr) (s : State) : Result := .next (s.setPc (addr16 nnn))

/-- 2nnn (R122): fault when `SP = 16`; `SP` above 16 is refused (K24; log 2). -/
def execCall (nnn : Addr) (s : State) : Result :=
  if s.sp = 16#5 then .next (takeFault .stackOverflow s)
  else if h : s.sp.toNat < 16 then .next ((pushPc s h).setPc (addr16 nnn))
  else .refused .stackPointerOutOfRange

/-- 3xkk (R123). -/
def execSeByte (x : RegIdx) (kk : Byte) (s : State) : Result := .next (skipIf (s.getV x == kk) s)

/-- 4xkk (R124). -/
def execSneByte (x : RegIdx) (kk : Byte) (s : State) : Result := .next (skipIf (s.getV x != kk) s)

/-- 5xy0 (R125). -/
def execSeReg (x y : RegIdx) (s : State) : Result := .next (skipIf (s.getV x == s.getV y) s)

/-- 9xy0 (R126). -/
def execSneReg (x y : RegIdx) (s : State) : Result := .next (skipIf (s.getV x != s.getV y) s)

/-- Bnnn (R127): `V[0]` whatever the x field holds. -/
def execJpV0 (nnn : Addr) (s : State) : Result := .next (s.setPc (indexedTarget s nnn))

end Sys2Proof.Machine
end

