-- ==== Sys2Proof/Machine/Graphics.lean ====
section
/-! DEFINITION. The graphics handlers (44_graphics.md): clear, and sprite draw with its collision flag. -/

namespace Sys2Proof.Machine

/-- 00E0 (R190): every cell off. -/
def execCls (s : State) : Result := .next (s.setPix (Vector.replicate 32 0#64))

/-- One sprite bit on one display row (R191): bit `7 - b` of the byte drives column offset `b` (R192), columns wrap
(R193), the cell is XORed with 1, and the flag is set when it was on. The accumulator is the row so far and the flag `c`. -/
def drawBit (byte : Byte) (x0 : Nat) (acc : BitVec 64 × Bool) (b : Nat) : BitVec 64 × Bool :=
  if byte.getLsbD (7 - b) then
    (acc.1 ^^^ BitVec.twoPow 64 ((x0 + b) % 64), acc.2 || acc.1.getLsbD ((x0 + b) % 64))
  else acc

/-- The eight bits of a sprite byte, left to right, on one display row (R191). -/
def drawBits (byte : Byte) (x0 : Nat) (acc : BitVec 64 × Bool) : BitVec 64 × Bool :=
  (List.range 8).foldl (drawBit byte x0) acc

/-- One sprite row; a row past 31 is clipped: it changes no cell and no flag (R193). -/
def drawRow (byte : Byte) (row x0 : Nat) (acc : Display × Bool) : Display × Bool :=
  if h : row < 32 then
    (acc.1.set row (drawBits byte x0 (acc.1[row], acc.2)).1, (drawBits byte x0 (acc.1[row], acc.2)).2)
  else acc

/-- The `n` rows of the sprite at `I`, top to bottom, drawn from column `x0` and row `y0` (R191). -/
def drawSprite (s : State) (x0 y0 n : Nat) : Display × Bool :=
  (List.range n).foldl (fun acc r => drawRow (s.readByte (effectiveAddr s r)) (y0 + r) x0 acc) (s.pix, false)

/-- Dxyn (R191): the coordinates are sampled before `VF` is written; all `n` rows are bounds-checked, clipped or not;
`VF` is written in every execution that does not fault. -/
def execDrw (x y : RegIdx) (n : Nibble) (s : State) : Result :=
  unlessFault (checkRange s.i.toNat n.toNat) s
    (let drawn := drawSprite s (startColumn s x) (startRow s y) n.toNat
     (s.setPix drawn.1).setV VF (flagByte drawn.2))

end Sys2Proof.Machine
end

