-- ==== Sys2Proof/Machine/IndexMemory.lean ====
section
/-! DEFINITION. The index-register and memory handlers (43_index_memory.md). No load or store changes `I` (R176). -/

namespace Sys2Proof.Machine

/-- Annn (R170). -/
def execLdI (nnn : Addr) (s : State) : Result := .next (s.setI (addr16 nnn))

/-- Fx1E (R171): modulo 65536, no flag, no bounds check. -/
def execAddI (x : RegIdx) (s : State) : Result := .next (s.setI (s.i + byte16 (s.getV x)))

/-- Fx29 (R172): an address computation, no memory read. -/
def execLdF (x : RegIdx) (s : State) : Result := .next (s.setI (glyphAddr (s.getV x)))

/-- The three writes of Fx33, ascending (R173). -/
def storeBcd (a : Byte) (s : State) : State :=
  ((s.writeByte (effectiveAddr s 0) (hundreds a)).writeByte (effectiveAddr s 1) (tens a)).writeByte
    (effectiveAddr s 2) (ones a)

/-- Fx33 (R173). -/
def execLdB (x : RegIdx) (s : State) : Result :=
  unlessFault (checkRange s.i.toNat 3) s (storeBcd (s.getV x) s)

/-- `MemWrite(I + k, 1, V[k])` for `k` in `0 .. n-1`, ascending (R174). -/
def storeBytes (n : Nat) (s : State) : State :=
  (List.range n).foldl (fun t k => t.writeByte (effectiveAddr t k) (t.getV (BitVec.ofNat 4 k))) s

/-- Fx55 (R174): inclusive of `V[x]`. -/
def execStoreRegs (x : RegIdx) (s : State) : Result :=
  unlessFault (checkRange s.i.toNat (x.toNat + 1)) s (storeBytes (x.toNat + 1) s)

/-- `V[k] <- MemRead(I + k, 1)` for `k` in `0 .. n-1`, ascending (R175). -/
def loadBytes (n : Nat) (s : State) : State :=
  (List.range n).foldl (fun t k => t.setV (BitVec.ofNat 4 k) (t.readByte (effectiveAddr t k))) s

/-- Fx65 (R175): inclusive of `V[x]`. -/
def execLoadRegs (x : RegIdx) (s : State) : Result :=
  unlessFault (checkRange s.i.toNat (x.toNat + 1)) s (loadBytes (x.toNat + 1) s)

end Sys2Proof.Machine
end

