-- ==== Sys2Proof/Machine/TimersKeypad.lean ====
section
/-! DEFINITION. The timer and keypad handlers (45_timers_keypad.md). The per-cycle timer decrement is in Machine/Cycle.lean. -/

namespace Sys2Proof.Machine

/-- Ex9E (R210): a key index above 15 faults (R217). -/
def execSkp (x : RegIdx) (s : State) : Result :=
  unlessFault (checkKey s x) s (skipIf (s.keyDown (s.getV x).toNat) s)

/-- ExA1 (R211): a key index above 15 faults (R217). -/
def execSknp (x : RegIdx) (s : State) : Result :=
  unlessFault (checkKey s x) s (skipIf (!s.keyDown (s.getV x).toNat) s)

/-- Fx07 (R212): `DT` before this cycle's decrement. -/
def execLdVxDT (x : RegIdx) (s : State) : Result := .next (s.setV x s.dt)

/-- Fx0A (R213): while no key is pressed `PC` goes back to this instruction; else `V[x]` is the least pressed key. -/
def execLdVxK (x : RegIdx) (s : State) : Result :=
  match leastKey s with
  | none => .next (rewindPc s)
  | some k => .next (s.setV x (BitVec.ofNat 8 k))

/-- Fx15 (R214). -/
def execLdDTVx (x : RegIdx) (s : State) : Result := .next (s.setDt (s.getV x))

/-- Fx18 (R215). -/
def execLdSTVx (x : RegIdx) (s : State) : Result := .next (s.setSt (s.getV x))

end Sys2Proof.Machine
end

