-- ==== Sys2Proof/Machine/Undecoded.lean ====
section
/-! DEFINITION. The no-op handler (46_undecoded.md). -/

namespace Sys2Proof.Machine

/-- Any undecoded word (R230): the handler writes no state. -/
def execNop (_w : Word) (s : State) : Result := .next s

end Sys2Proof.Machine
end

