-- ==== Sys2Proof/Machine/Step.lean ====
section
/-! DEFINITION. One requested cycle (40_cycle.md R102), and the placement of a word for the host's questions. -/

namespace Sys2Proof.Machine

/-- `execute(decode(OPCODE))` and the end of the cycle (R102, R105). -/
def finish (r : Result) : Result :=
  match r with
  | .next t => .next (endCycle t)
  | .fault f => .fault f
  | .refused q => .refused q

/-- One cycle of R102; a request while Halted has no effect (R101).
DESIGN CHOICE: in a state whose `FAULT` holds a reserved code 6 or 7, which 93_implementation_defined.md K23 calls not
reachable and says to refuse, the step is R102's as in any other state, since nothing reads `FAULT` (R32; log 14). -/
def step (s : State) : Host.Outcome State Fault Refusal :=
  if s.phase = .halted then .next s
  else match checkFetch s with
    | some c => .next (enterFault c s)
    | none => finish (exec (decodeWord (fetchedWord s)) (latch (fetchedWord s) s))

/-- The address `withFetchWord` stores at: `PC` where it can be fetched, else the program origin 0x200 (log 7). -/
def State.fetchSlot (s : State) : Word := if s.pc.toNat > 0xFFE then 0x200#16 else s.pc

/-- `s` with the instruction word stored where `step` fetches its next instruction, high byte first (R54).
A halted core is made Idle and a `PC` that cannot be fetched is set to 0x200, so that the next step runs the word (log 7). -/
def State.withFetchWord (s : State) (nbits w : Nat) : State :=
  let word := BitVec.ofNat 16 (w % 2 ^ nbits)
  let at0 := (s.setPc s.fetchSlot).setPhase (if s.phase = .halted then .idle else s.phase)
  (at0.writeByte s.fetchSlot.toNat (highByte word)).writeByte (s.fetchSlot.toNat + 1) (lowByte word)

end Sys2Proof.Machine
end

