-- ==== Sys2Proof/Machine/Interface.lean ====
section
/-! DEFINITION. The host interface as transactions between cycles (60_exceptions.md R256 to R265). -/

namespace Sys2Proof.Machine

/-- `load_status` (R265). -/
inductive LoadStatus where
  | ok
  | loadTooLarge
  deriving DecidableEq, Repr

/-- `M[a + j] <- b[j]`, ascending. -/
def installAt : Nat → List Byte → State → State
  | _, [], s => s
  | a, b :: image, s => installAt (a + 1) image (s.writeByte a b)

/-- Program install at 0x200 (R256): an image over 3584 bytes is rejected and writes nothing (R243). -/
def install (image : List Byte) (s : State) : LoadStatus × State :=
  if image.length > 3584 then (.loadTooLarge, s) else (.ok, installAt 0x200 image s)

/-- Keypad input (R257): all 16 bits at once. -/
def setKeypad (keys : Keypad) (s : State) : State := s.setKey keys

/-- Construction, which is reset (R260, R270, R271), with a random seed. -/
def construct (seed : Nat) : State := State.reset.setRng { seed := seed, drawn := 0 }

/-- The `display` output (R258, R265): the 2048 cells in flat order, cell (r, c) at index `r * 64 + c`. -/
def displayPort (s : State) : List Bool := (List.range 2048).map (fun k => s.pixel (k / 64) (k % 64))

/-- The `sound_timer` output (R258, R265). -/
def soundTimerPort (s : State) : Byte := s.st

/-- The tone signal, `ST > 0` (R258). -/
def tone (s : State) : Bool := decide (s.st.toNat > 0)

/-- The `fault` output (R242, R265). -/
def faultPort (s : State) : BitVec 3 := s.fault

/-- What the `snapshot` output carries: the whole state, every element of 10_state.md (R262, decision D28), the elements
R265 lists by name first. `KEY`, `PHASE` and `rng_state`, which R265 does not list, are there by R262 and D28 (log 15). -/
structure Snapshot where
  v : Vector Byte 16
  i : Word
  pc : Word
  sp : BitVec 5
  stack : Vector Word 16
  dt : Byte
  st : Byte
  mem : List Byte
  opcode : Word
  /-- `PIX` in the flat order of R37. -/
  pix : List Bool
  key : Keypad
  fault : BitVec 3
  phase : Phase
  /-- The model's own form of `rng_state` (log 1). -/
  rng : Rng
  deriving DecidableEq, Repr

/-- The `snapshot` output (R262, R265), read between cycles, with all 4096 bytes of `M` in address order and all 2048 cells
of `PIX` in flat order. It reads every element and writes none. -/
def snapshot (s : State) : Snapshot where
  v := s.v
  i := s.i
  pc := s.pc
  sp := s.sp
  stack := s.stack
  dt := s.dt
  st := s.st
  mem := (List.range 4096).map s.readByte
  opcode := s.opcode
  pix := displayPort s
  key := s.key
  fault := s.fault
  phase := s.phase
  rng := s.rng

/-- A transaction that can change the core's state (R264, R265). -/
inductive HostRequest where
  /-- `reset` with a seed. -/
  | construct (seed : Nat)
  /-- Program install. -/
  | install (image : List Byte)
  /-- Keypad snapshot. -/
  | keypad (keys : Keypad)
  /-- One cycle. -/
  | cycle
  deriving DecidableEq, Repr

/-- One transaction (R265). -/
def serve (q : HostRequest) (s : State) : Result :=
  match q with
  | .construct seed => .next (construct seed)
  | .install image => .next (install image s).2
  | .keypad keys => .next (setKeypad keys s)
  | .cycle => step s

/-- A session: transactions one after another (R264), stopping where the model stops. -/
def serveAll : List HostRequest → State → Result
  | [], s => .next s
  | q :: qs, s =>
    match serve q s with
    | .next t => serveAll qs t
    | .fault f => .fault f
    | .refused r => .refused r

end Sys2Proof.Machine
end

