-- ==== Sys2Proof/Safety.lean ====
section
/-! DEFINITION. What a safe state and a safe run are, and the terms claims are stated in: state elements and frames, the
fault table, the writers of each state element, and the closed forms of a drawn sprite and of a parked program. -/

namespace Sys2Proof.Safety

open Sys2Proof.Machine

/-! ### State elements and frames -/

/-- One element of the state: every register, stack entry, display cell, key and memory byte by itself (10_state.md). -/
inductive Element where
  | v (x : RegIdx)
  | i
  | pc
  | sp
  | stack (j : Nat)
  | dt
  | st
  | opcode
  | fault
  | phase
  | pixel (r c : Nat)
  | key (k : Nat)
  | mem (a : Nat)
  | rng
  deriving DecidableEq, Repr

/-- The element reads the same in both states. -/
def Element.same (e : Element) (s t : State) : Prop :=
  match e with
  | .v x => t.getV x = s.getV x
  | .i => t.i = s.i
  | .pc => t.pc = s.pc
  | .sp => t.sp = s.sp
  | .stack j => t.stack[j]? = s.stack[j]?
  | .dt => t.dt = s.dt
  | .st => t.st = s.st
  | .opcode => t.opcode = s.opcode
  | .fault => t.fault = s.fault
  | .phase => t.phase = s.phase
  | .pixel r c => t.pixel r c = s.pixel r c
  | .key k => t.keyDown k = s.keyDown k
  | .mem a => t.readByte a = s.readByte a
  | .rng => t.rng = s.rng

/-- The frame: every element outside `touched` reads in `t` as it read in `s`. -/
def UnchangedBut (touched : Element → Prop) (s t : State) : Prop := ∀ e, ¬ touched e → e.same s t

/-- What a flag-writing ALU instruction leaves (42_alu.md R141 under `FLAG_THEN_RESULT`): result `r` in `V[x]`, flag `c` in
`VF`, and with `x = F` the result; every other element unchanged. -/
def ResultAndFlag (x : RegIdx) (r : Nat) (c : Bool) (s t : State) : Prop :=
  (t.getV x).toNat = r ∧ (x ≠ VF → t.getV VF = if c then 1#8 else 0#8) ∧
    UnchangedBut (fun e => e = .v x ∨ e = .v VF) s t

/-- The state a handler's fault leaves, seen from the execute phase (60_exceptions.md R242, R244): the fetch's `PC`
advance undone, `FAULT` the code, `PHASE` Halted, and every other element as it was. -/
def FaultState (code : BitVec 3) (s : State) : State :=
  { s with pc := s.pc - 2#16, fault := code, phase := .halted }

/-- What the end of a completed cycle adds to the handler's effect (40_cycle.md R102, R106): both timers one down, not
below 0, and `PHASE` Idle. -/
def CompletedCycle (s : State) : State :=
  { s with dt := if s.dt = 0#8 then 0#8 else s.dt - 1#8
           st := if s.st = 0#8 then 0#8 else s.st - 1#8
           phase := .idle }

/-! ### Tables of the spec -/

/-- 60_exceptions.md R241: which fault an instruction raises in a state, from the table's own conditions. -/
def faultTable (i : Instr) (s : State) : Option (BitVec 3) :=
  match i with
  | .call _ => if s.sp.toNat = 16 then some 1#3 else none
  | .ret => if s.sp.toNat = 0 then some 2#3 else none
  | .drw _ _ n => if n.toNat > 0 ∧ s.i.toNat + n.toNat - 1 > 0xFFF then some 4#3 else none
  | .ldB _ => if s.i.toNat + 2 > 0xFFF then some 4#3 else none
  | .storeRegs x | .loadRegs x => if s.i.toNat + x.toNat > 0xFFF then some 4#3 else none
  | .skp x | .sknp x => if (s.getV x).toNat > 0xF then some 5#3 else none
  | .cls | .jp _ | .seByte _ _ | .sneByte _ _ | .seReg _ _ | .ldByte _ _ | .addByte _ _ | .ldReg _ _ | .orReg _ _
  | .andReg _ _ | .xorReg _ _ | .addReg _ _ | .subReg _ _ | .shr _ _ | .subnReg _ _ | .shl _ _ | .sneReg _ _
  | .ldI _ | .jpV0 _ | .rnd _ _ | .ldVxDT _ | .ldVxK _ | .ldDTVx _ | .ldSTVx _ | .addI _ | .ldF _ | .nop _ => none

/-- The elements an instruction may write when it does not fault: 10_state.md R22, R26 to R30, R35, R37 and the write
sets of 20_memory.md R51, from the execute phase's point of view. -/
def mayWrite (i : Instr) (s : State) (e : Element) : Prop :=
  match i with
  | .cls => ∃ r c, e = .pixel r c
  | .ret => e = .sp ∨ e = .pc
  | .call _ => e = .sp ∨ e = .pc ∨ e = .stack s.sp.toNat
  | .jp _ | .jpV0 _ | .seByte _ _ | .sneByte _ _ | .seReg _ _ | .sneReg _ _ | .skp _ | .sknp _ => e = .pc
  | .ldByte x _ | .addByte x _ | .ldReg x _ | .orReg x _ | .andReg x _ | .xorReg x _ | .ldVxDT x => e = .v x
  | .addReg x _ | .subReg x _ | .shr x _ | .subnReg x _ | .shl x _ => e = .v x ∨ e = .v VF
  | .ldI _ | .addI _ | .ldF _ => e = .i
  | .rnd x _ => e = .v x ∨ e = .rng
  | .drw _ _ _ => e = .v VF ∨ ∃ r c, e = .pixel r c
  | .ldVxK x => e = .v x ∨ e = .pc
  | .ldDTVx _ => e = .dt
  | .ldSTVx _ => e = .st
  | .ldB _ => ∃ k, k < 3 ∧ e = .mem (effectiveAddr s k)
  | .storeRegs x => ∃ k, k ≤ x.toNat ∧ e = .mem (effectiveAddr s k)
  | .loadRegs x => ∃ z : RegIdx, z.toNat ≤ x.toNat ∧ e = .v z
  | .nop _ => False

/-! ### A drawn sprite -/

/-- A set bit of the `n`-row sprite at `I`, drawn from column `V[x] mod 64` and row `V[y] mod 32`, falls on cell `(r, c)`:
bit `7 - b` of row byte `j` is column offset `b`, columns wrap, rows do not (44_graphics.md R192, R193). -/
def SpriteCovers (s : State) (x y : RegIdx) (n : Nat) (r c : Nat) : Prop :=
  ∃ j b, j < n ∧ b < 8 ∧ (s.getV y).toNat % 32 + j = r ∧ ((s.getV x).toNat % 64 + b) % 64 = c ∧
    (s.readByte (s.i.toNat + j)).getLsbD (7 - b) = true

/-! ### Runs -/

/-- `n` completed cycles one after another, none of which executes Fx15 (40_cycle.md R107). -/
inductive QuietCycles : Nat → State → State → Prop where
  | none (s : State) : QuietCycles 0 s s
  | more {n : Nat} {s t u : State} (active : s.phase ≠ .halted) (completes : step s = .next t)
      (noFault : t.phase ≠ .halted) (quiet : ∀ x, decodeWord (fetchedWord s) ≠ .ldDTVx x)
      (rest : QuietCycles n t u) : QuietCycles (n + 1) s u

/-- A bad end: `PHASE` Halted with `FAULT` nonzero (70_reset_and_hazards.md R276 (a)). -/
def Faulted (s : State) : Prop := s.phase = .halted ∧ s.fault ≠ 0#3

/-- Parked: the word at `PC` is a jump to itself (70_reset_and_hazards.md R276 (b)). -/
def Parked (s : State) : Prop :=
  s.phase = .idle ∧ s.pc.toNat ≤ 0xFFE ∧ ∃ nnn : Addr, decodeWord (fetchedWord s) = .jp nnn ∧ nnn.toNat = s.pc.toNat

/-! ### Invariants -/

/-- What holds of the state between cycles: memory canonical, `SP` at most 16 (10_state.md R28), `FAULT` at most 5 (R32),
`PHASE` Idle or Halted (R33), and Halted exactly when `FAULT` is nonzero (R32, 60_exceptions.md R244). -/
structure Inv (s : State) : Prop where
  memory : s.mem.wf = true
  depth : s.sp.toNat ≤ 16
  code : s.fault.toNat ≤ 5
  resting : s.phase = .idle ∨ s.phase = .halted
  fatal : s.fault = 0#3 ↔ s.phase ≠ .halted

/-- 10_state.md R25: `PC` never exceeds 0x10FE, and what the stack holds never exceeds 0x1000. -/
structure PcBounded (s : State) : Prop where
  pc : s.pc.toNat ≤ 0x10FE
  stack : ∀ (j : Nat) (h : j < 16), (s.stack[j]).toNat ≤ 0x1000

end Sys2Proof.Safety
end

