-- ==== Sys2Proof/Certificates/Slice0/Obligations.lean ====
section
/-! DEFINITION. The statements for the provers, one per rule or group of rules of spec/.
Where a clause rests on a decision the spec marks as its own, the docstring names it. -/

open Sys2Proof Sys2Proof.Machine Sys2Proof.Safety

/-! ### Encoding (30_encoding.md) -/

/-- The bytes of every well-formed instruction decode to it, with every operand, and leave the bytes after them
(30_encoding.md sections 1, 4 and 5, 20_memory.md section 2). -/
def Obligations.DecodeInvertsEncode : Prop :=
  ∀ (i : Instr) (rest : List Byte), i.wf = true → decode (encodeBytes i ++ rest) = .ok (i, rest)

/-- Every word decodes to a well-formed instruction whose encoding is that word: no bit of a word is dropped. -/
def Obligations.EncodeInvertsDecode : Prop :=
  ∀ w : Word, (decodeWord w).wf = true ∧ encode (decodeWord w) = w

/-- R82: a row selects a word by mask and match exactly when the word decodes to the row's instruction, no two rows select one
word, and the no-op applies exactly to the words no row selects. -/
def Obligations.OpcodeMapSelectsTheHandler : Prop :=
  ∀ w : Word,
    (∀ r ∈ opcodeRows, (w &&& r.mask) = r.pattern ↔ (decodeWord w).rowNumber = r.number) ∧
    (∀ r ∈ opcodeRows, ∀ q ∈ opcodeRows, (w &&& r.mask) = r.pattern → (w &&& q.mask) = q.pattern → r = q) ∧
    (decodeWord w = .nop w ↔ ∀ r ∈ opcodeRows, (w &&& r.mask) ≠ r.pattern)

/-- A word runs the no-op exactly when it is in the list of 30_encoding.md R79 (derived there; exact matching is the spec's decision
D7). -/
def Obligations.UndecodedWordsAreTheListedOnes : Prop :=
  ∀ w : Word, (decodeWord w = .nop w ↔ undecoded w = true) ∧ (∀ u : Word, decodeWord w = .nop u → u = w)

/-- Words written out from the formats of R71 and the rows of R82, one or more of every family. -/
def Obligations.DecodesWordsOfEveryFamily : Prop :=
  decodeWord 0b0000000011100000#16 = .cls ∧ decodeWord 0b0000000011101110#16 = .ret ∧
  decodeWord 0b0010101010111100#16 = .call 0xABC#12 ∧ decodeWord 0b0101000100100000#16 = .seReg 1#4 2#4 ∧
  decodeWord 0b0110001101000010#16 = .ldByte 3#4 0x42#8 ∧ decodeWord 0b1000111100010100#16 = .addReg 15#4 1#4 ∧
  decodeWord 0b1010000100100011#16 = .ldI 0x123#12 ∧ decodeWord 0b1100010101010011#16 = .rnd 5#4 0x53#8 ∧
  decodeWord 0b1101000000010101#16 = .drw 0#4 1#4 5#4 ∧ decodeWord 0b1110011110100001#16 = .sknp 7#4 ∧
  decodeWord 0b1111001001010101#16 = .storeRegs 2#4 ∧ decodeWord 0b0101000100100001#16 = .nop 0x5121#16

/-! ### The cycle (40_cycle.md) -/

/-- When the core is not halted, `PC` can be fetched and the bytes at `PC` decode to `i`, a step is `exec i` on the state with
`OPCODE` latched, `PHASE` Fetched and `PC` advanced by 2, and then, unless the handler faulted, the timer decrement and
Idle (R102 to R106; the fault path and the return to Idle are the spec's decisions D1 and D20). -/
def Obligations.StepRunsTheDecodedInstruction : Prop :=
  ∀ (s : State) (i : Instr), s.phase ≠ .halted → s.pc.toNat ≤ 0xFFE →
    decode [s.readByte s.pc.toNat, s.readByte (s.pc.toNat + 1)] = .ok (i, []) →
    step s =
      match exec i { s with opcode := s.readByte s.pc.toNat ++ s.readByte (s.pc.toNat + 1)
                            phase := .fetched
                            pc := s.pc + 2#16 } with
      | .next t => .next (if t.phase = .halted then t else CompletedCycle t)
      | .fault f => .fault f
      | .refused q => .refused q

/-- A request in Halted changes nothing (R101), and a cycle whose `PC` is above 0xFFE faults FETCH_BOUNDS with nothing
else changed (R103, R242); the spec's decisions D1, D4 and D19. -/
def Obligations.CycleEntryChecks : Prop :=
  ∀ s : State,
    (s.phase = .halted → step s = .next s) ∧
    (s.phase ≠ .halted → s.pc.toNat > 0xFFE → step s = .next { s with fault := 3#3, phase := .halted })

/-- R106: in a completed cycle both timers end one below what the handler left, never below 0; in a cycle that faults and
in a request while halted they keep their value. -/
def Obligations.TimersDecrementInEveryCompletedCycle : Prop :=
  ∀ s t : State, step s = .next t →
    (s.phase = .halted ∨ t.phase = .halted → t.dt = s.dt ∧ t.st = s.st) ∧
    (s.phase ≠ .halted → t.phase ≠ .halted →
      ∃ u, exec (decodeWord (fetchedWord s))
          { s with opcode := fetchedWord s, phase := .fetched, pc := s.pc + 2#16 } = .next u ∧
        t.dt.toNat = u.dt.toNat - 1 ∧ t.st.toNat = u.st.toNat - 1)

/-- A timer written in a cycle is decremented at the end of it, and Fx07 reads `DT` before the decrement (R107, derived
there). -/
def Obligations.TimerWritesCountInTheirOwnCycle : Prop :=
  ∀ (s : State) (x : RegIdx), s.phase ≠ .halted → s.pc.toNat ≤ 0xFFE →
    (decodeWord (fetchedWord s) = .ldDTVx x →
      ∃ t, step s = .next t ∧ t.dt.toNat = (s.getV x).toNat - 1 ∧ t.st.toNat = s.st.toNat - 1) ∧
    (decodeWord (fetchedWord s) = .ldSTVx x →
      ∃ t, step s = .next t ∧ t.st.toNat = (s.getV x).toNat - 1 ∧ t.dt.toNat = s.dt.toNat - 1) ∧
    (decodeWord (fetchedWord s) = .ldVxDT x →
      ∃ t, step s = .next t ∧ t.getV x = s.dt ∧ t.dt.toNat = s.dt.toNat - 1)

/-- After n completed cycles none of which writes `DT`, a `DT` that held D holds max(0, D - n) (R107, derived there). -/
def Obligations.DelayTimerAfterQuietCycles : Prop :=
  ∀ (n : Nat) (s t : State), QuietCycles n s t → t.dt.toNat = s.dt.toNat - n

/-! ### Faults (60_exceptions.md) -/

/-- A fault is precise: the state is the one at the start of the cycle but for `FAULT`, `OPCODE` and `PHASE`, and `OPCODE`
and the cause are what R242 says (R244, R245; the spec's decision D1, and D4 for the FETCH_BOUNDS clause). -/
def Obligations.FaultsArePrecise : Prop :=
  ∀ s t : State, s.phase ≠ .halted → step s = .next t → t.phase = .halted →
    t = { s with fault := t.fault, opcode := t.opcode, phase := .halted } ∧
    ((s.pc.toNat > 0xFFE ∧ t.fault = 3#3 ∧ t.opcode = s.opcode) ∨
      (s.pc.toNat ≤ 0xFFE ∧ (t.fault = 1#3 ∨ t.fault = 2#3 ∨ t.fault = 4#3 ∨ t.fault = 5#3) ∧
        t.opcode = s.readByte s.pc.toNat ++ s.readByte (s.pc.toNat + 1)))

/-- With `SP` legal, an instruction faults exactly where the table of R241 says, with its cause, and otherwise completes with `FAULT` and
`PHASE` as they were (R241, derived there; the causes are the spec's decisions D1 to D5 and D8). -/
def Obligations.FaultsAreExactlyTheTabled : Prop :=
  ∀ (i : Instr) (s : State), s.sp.toNat ≤ 16 →
    match faultTable i s with
    | some code => exec i s = .next (FaultState code s)
    | none => ∃ t, exec i s = .next t ∧ t.fault = s.fault ∧ t.phase = s.phase

/-- A halted core stays as it is through every transaction but reset: only the keypad and memory, which the host writes, can change
(R246, R271; the spec's decisions D1, D19, D30). -/
def Obligations.HaltedUntilReset : Prop :=
  ∀ (qs : List HostRequest) (s t : State), s.phase = .halted → (∀ seed, HostRequest.construct seed ∉ qs) →
    serveAll qs s = .next t → t = { s with key := t.key, mem := t.mem }

/-! ### Invariants -/

/-- Every step keeps the invariant of the state between cycles: canonical memory, `SP` at most 16, a defined `FAULT` code, `PHASE` Idle
or Halted, and Halted exactly with a fault (10_state.md sections 4 and 5, 60_exceptions.md section 2). -/
def Obligations.StepKeepsTheMachineInvariant : Prop :=
  ∀ s t : State, Inv s → step s = .next t → Inv t

/-- The state after reset meets both invariants, whatever the seed. -/
def Obligations.ResetMeetsTheInvariants : Prop :=
  ∀ seed : Nat, Inv (construct seed) ∧ PcBounded (construct seed)

/-- No step takes `PC` past 0x10FE or puts more than 0x1000 on the stack (10_state.md R25, derived there). -/
def Obligations.StepKeepsPcBounded : Prop :=
  ∀ s t : State, PcBounded s → step s = .next t → PcBounded t

/-- From every state that meets the invariant a cycle completes, with a next state: the model never stops there. -/
def Obligations.EveryCycleCompletes : Prop :=
  ∀ s : State, Inv s → ∃ t, step s = .next t

/-- Any session of host transactions from a state that meets both invariants runs to its end and ends in such a state
(60_exceptions.md section 7). -/
def Obligations.SessionsKeepTheInvariants : Prop :=
  ∀ (qs : List HostRequest) (s : State), Inv s → PcBounded s →
    ∃ t, serveAll qs s = .next t ∧ Inv t ∧ PcBounded t

/-! ### Reset and the host interface (10_state.md section 10, 60_exceptions.md section 7) -/

/-- The state after reset, element by element (10_state.md R41; its values but the font and the origin are the spec's decision D11,
the font is D12; the seed and count of the random source are this model's choice, log 1). -/
def Obligations.ResetState : Prop :=
  ∀ seed : Nat, ∃ s : State, s = construct seed ∧
    (∀ x, s.getV x = 0#8) ∧ s.i = 0#16 ∧ s.pc = 0x200#16 ∧ s.sp = 0#5 ∧ (∀ j, j < 16 → s.stack[j]? = some 0#16) ∧
    s.dt = 0#8 ∧ s.st = 0#8 ∧ (∀ r c, s.pixel r c = false) ∧ (∀ k, s.keyDown k = false) ∧ s.opcode = 0#16 ∧
    s.fault = 0#3 ∧ s.phase = .idle ∧
    (∀ a, a < 80 → some (s.readByte (0x050 + a)) = fontGlyphs[a]?) ∧
    (∀ a, (a < 0x050 ∨ 0x050 + 80 ≤ a) → s.readByte a = 0#8) ∧
    s.rng = { seed := seed, drawn := 0 }

/-- Program install writes exactly the image at 0x200 and answers OK, or rejects an image over 3584 bytes and changes
nothing (R256, R243; the spec's decision D18). -/
def Obligations.InstallWritesTheImageOnly : Prop :=
  ∀ (image : List Byte) (s : State), s.mem.wf = true →
    (image.length ≤ 3584 → ∃ t, install image s = (.ok, t) ∧ t.mem.wf = true ∧
      (∀ j, j < image.length → some (t.readByte (0x200 + j)) = image[j]?) ∧
      UnchangedBut (fun e => ∃ j, j < image.length ∧ e = .mem (0x200 + j)) s t) ∧
    (image.length > 3584 → install image s = (.loadTooLarge, s))

/-- R257: one input transaction sets all 16 keys at once, and nothing else. -/
def Obligations.KeypadIsReplacedWholesale : Prop :=
  ∀ (keys : Keypad) (s : State), ∃ t, serve (.keypad keys) s = .next t ∧
    (∀ k, k < 16 → t.keyDown k = keys.getLsbD k) ∧ UnchangedBut (fun e => ∃ k, k < 16 ∧ e = .key k) s t

/-- What the output ports show: cell (r, c) at flat index r * 64 + c, `ST` and the tone, `FAULT`, and every state element in the
snapshot (60_exceptions.md R258, R262, R265; the spec's decisions D13, D21, D28, D29; that `KEY`, `PHASE` and the model's
form of `rng_state` are in the snapshot too is log 15). -/
def Obligations.OutputPortsShowTheState : Prop :=
  ∀ s : State,
    (displayPort s).length = 2048 ∧ (∀ r c, r < 32 → c < 64 → (displayPort s)[r * 64 + c]? = some (s.pixel r c)) ∧
    soundTimerPort s = s.st ∧ (tone s = true ↔ s.st ≠ 0#8) ∧ faultPort s = s.fault ∧
    (snapshot s).mem.length = 4096 ∧ (∀ a, a < 4096 → (snapshot s).mem[a]? = some (s.readByte a)) ∧
    (∀ x : RegIdx, (snapshot s).v[x.toNat]? = some (s.getV x)) ∧ (snapshot s).i = s.i ∧ (snapshot s).pc = s.pc ∧
    (snapshot s).sp = s.sp ∧ (snapshot s).stack = s.stack ∧ (snapshot s).dt = s.dt ∧ (snapshot s).st = s.st ∧
    (snapshot s).opcode = s.opcode ∧ (snapshot s).pix = displayPort s ∧
    (∀ k, (snapshot s).key.getLsbD k = s.keyDown k) ∧ (snapshot s).fault = s.fault ∧ (snapshot s).phase = s.phase ∧
    (snapshot s).rng = s.rng

/-- Two canonical memories that read alike at every address are the same list: the representation of `M` carries
nothing beyond its 4096 bytes (20_memory.md section 1). -/
def Obligations.MemoriesThatReadAlikeAreEqual : Prop :=
  ∀ m n : Memory, m.wf = true → n.wf = true → (∀ a, a < 4096 → m.read a = n.read a) → m = n

/-! ### Arithmetic and logic (42_alu.md) -/

/-- R142, R144, R212: 6xkk, 8xy0 and Fx07 put the byte, `V[y]` or `DT` into `V[x]` and change nothing else. -/
def Obligations.LoadsSetTheRegister : Prop :=
  ∀ (x y : RegIdx) (kk : Byte) (s : State),
    decodeWord (0x6#4 ++ x ++ kk) = .ldByte x kk ∧ decodeWord (0x8#4 ++ x ++ y ++ 0x0#4) = .ldReg x y ∧
    decodeWord (0xF#4 ++ x ++ 0x07#8) = .ldVxDT x ∧
    (∃ t, exec (.ldByte x kk) s = .next t ∧ t.getV x = kk ∧ UnchangedBut (fun e => e = .v x) s t) ∧
    (∃ t, exec (.ldReg x y) s = .next t ∧ t.getV x = s.getV y ∧ UnchangedBut (fun e => e = .v x) s t) ∧
    (∃ t, exec (.ldVxDT x) s = .next t ∧ t.getV x = s.dt ∧ UnchangedBut (fun e => e = .v x) s t)

/-- R143: 7xkk adds modulo 256 and writes no flag. -/
def Obligations.AddByteWrapsWithoutFlag : Prop :=
  ∀ (x : RegIdx) (kk : Byte) (s : State), decodeWord (0x7#4 ++ x ++ kk) = .addByte x kk ∧
    ∃ t, exec (.addByte x kk) s = .next t ∧
    (t.getV x).toNat = ((s.getV x).toNat + kk.toNat) % 256 ∧ UnchangedBut (fun e => e = .v x) s t

/-- R145, R146, R147: 8xy1, 8xy2 and 8xy3 combine the registers bit by bit and leave `VF` alone unless it is `V[x]`. -/
def Obligations.LogicIsBitwiseAndLeavesTheFlag : Prop :=
  ∀ (x y : RegIdx) (s : State),
    decodeWord (0x8#4 ++ x ++ y ++ 0x1#4) = .orReg x y ∧ decodeWord (0x8#4 ++ x ++ y ++ 0x2#4) = .andReg x y ∧
    decodeWord (0x8#4 ++ x ++ y ++ 0x3#4) = .xorReg x y ∧
    (∃ t, exec (.orReg x y) s = .next t ∧ UnchangedBut (fun e => e = .v x) s t ∧
      ∀ k, k < 8 → (t.getV x).getLsbD k = ((s.getV x).getLsbD k || (s.getV y).getLsbD k)) ∧
    (∃ t, exec (.andReg x y) s = .next t ∧ UnchangedBut (fun e => e = .v x) s t ∧
      ∀ k, k < 8 → (t.getV x).getLsbD k = ((s.getV x).getLsbD k && (s.getV y).getLsbD k)) ∧
    (∃ t, exec (.xorReg x y) s = .next t ∧ UnchangedBut (fun e => e = .v x) s t ∧
      ∀ k, k < 8 → (t.getV x).getLsbD k = ((s.getV x).getLsbD k != (s.getV y).getLsbD k))

/-- 8xy4 leaves the sum modulo 256 in `V[x]` and the carry in `VF`, from the operands before any write (42_alu.md R148). With x = F
`VF` ends as the result: the spec's decision D10. -/
def Obligations.AddRegSetsCarry : Prop :=
  ∀ (x y : RegIdx) (s : State), ∃ t, exec (.addReg x y) s = .next t ∧
    ResultAndFlag x (((s.getV x).toNat + (s.getV y).toNat) % 256)
      (decide ((s.getV x).toNat + (s.getV y).toNat > 255)) s t

/-- 8xy5 and 8xy7 leave the difference modulo 256 in `V[x]` and NOT borrow in `VF` (42_alu.md R149, R151). With x = F `VF` ends as the
result: the spec's decision D10. -/
def Obligations.SubtractionsSetNotBorrow : Prop :=
  ∀ (x y : RegIdx) (s : State),
    (∃ t, exec (.subReg x y) s = .next t ∧
      ResultAndFlag x (if (s.getV x).toNat ≥ (s.getV y).toNat then (s.getV x).toNat - (s.getV y).toNat
          else (s.getV x).toNat + 256 - (s.getV y).toNat)
        (decide ((s.getV x).toNat ≥ (s.getV y).toNat)) s t) ∧
    (∃ t, exec (.subnReg x y) s = .next t ∧
      ResultAndFlag x (if (s.getV y).toNat ≥ (s.getV x).toNat then (s.getV y).toNat - (s.getV x).toNat
          else (s.getV y).toNat + 256 - (s.getV x).toNat)
        (decide ((s.getV y).toNat ≥ (s.getV x).toNat)) s t)

/-- 8xy6 and 8xyE shift `V[x]` logically by one and leave the bit shifted out in `VF`; `V[y]` plays no part (42_alu.md R150, R152). With
x = F `VF` ends as the result: the spec's decision D10. -/
def Obligations.ShiftsMoveOneBitIntoTheFlag : Prop :=
  ∀ (x y : RegIdx) (s : State),
    (∃ t, exec (.shr x y) s = .next t ∧
      ResultAndFlag x ((s.getV x).toNat / 2) (decide ((s.getV x).toNat % 2 = 1)) s t) ∧
    (∃ t, exec (.shl x y) s = .next t ∧
      ResultAndFlag x (2 * (s.getV x).toNat % 256) (decide ((s.getV x).toNat ≥ 128)) s t)

/-- The two orders of `FLAG_ORDER` differ only when the result's register is `VF`, which then ends as the result under one and as the
flag under the other; this hardware takes the first (42_alu.md R141; the spec's decision D10). -/
def Obligations.FlagOrderMattersOnlyForVF : Prop :=
  ∀ (x : RegIdx) (r : Byte) (c : Bool) (s : State),
    (x ≠ VF → writeResultAndFlagIn .flagThenResult x r c s = writeResultAndFlagIn .resultThenFlag x r c s) ∧
    (writeResultAndFlagIn .flagThenResult VF r c s).getV VF = r ∧
    (writeResultAndFlagIn .resultThenFlag VF r c s).getV VF = (if c then 1#8 else 0#8) ∧
    writeResultAndFlag x r c s = writeResultAndFlagIn .flagThenResult x r c s

/-- Cxkk puts the draw masked by `kk` into `V[x]` and consumes one draw, whatever the free byte is (42_alu.md R153; the spec's
decision D17; the seed and count of the random source are this model's choice, log 1). -/
def Obligations.RndMasksAFreeDraw : Prop :=
  ∀ (x : RegIdx) (kk : Byte) (s : State), ∃ t, exec (.rnd x kk) s = .next t ∧
    t.getV x = Config.drawByte s.rng.seed s.rng.drawn &&& kk ∧
    (∀ k, k < 8 → kk.getLsbD k = false → (t.getV x).getLsbD k = false) ∧
    t.rng = { seed := s.rng.seed, drawn := s.rng.drawn + 1 } ∧
    UnchangedBut (fun e => e = .v x ∨ e = .rng) s t

/-! ### Control flow (41_control_flow.md) -/

/-- R121: 1nnn sets `PC` to nnn and changes nothing else. -/
def Obligations.JumpSetsPc : Prop :=
  ∀ (nnn : Addr) (s : State), decodeWord (0x1#4 ++ nnn) = .jp nnn ∧
    ∃ t, exec (.jp nnn) s = .next t ∧ t.pc.toNat = nnn.toNat ∧
    UnchangedBut (fun e => e = .pc) s t

/-- Bnnn sets `PC` to nnn + V0 without wrap, whatever register the x field would name (41_control_flow.md R127; that a target
past 0xFFE faults only at the next fetch is the spec's decision D4). -/
def Obligations.IndexedJumpAddsV0 : Prop :=
  ∀ (nnn : Addr) (s : State), ∃ t, exec (.jpV0 nnn) s = .next t ∧
    t.pc.toNat = nnn.toNat + (s.getV 0#4).toNat ∧ UnchangedBut (fun e => e = .pc) s t

/-- R123, R124, R125, R126: the four register skips add 2 to `PC` (modulo 2^16) exactly when their condition holds, and
change nothing else; 5xyf and 9xyf with f not 0 are no-ops. -/
def Obligations.SkipsPassOneInstruction : Prop :=
  ∀ (x y : RegIdx) (kk : Byte) (s : State),
    decodeWord (0x3#4 ++ x ++ kk) = .seByte x kk ∧ decodeWord (0x4#4 ++ x ++ kk) = .sneByte x kk ∧
    decodeWord (0x5#4 ++ x ++ y ++ 0x0#4) = .seReg x y ∧ decodeWord (0x9#4 ++ x ++ y ++ 0x0#4) = .sneReg x y ∧
    (∀ f : Nibble, f ≠ 0x0#4 →
      decodeWord (0x5#4 ++ x ++ y ++ f) = .nop (0x5#4 ++ x ++ y ++ f) ∧
      decodeWord (0x9#4 ++ x ++ y ++ f) = .nop (0x9#4 ++ x ++ y ++ f)) ∧
    (∃ t, exec (.seByte x kk) s = .next t ∧ UnchangedBut (fun e => e = .pc) s t ∧
      t.pc.toNat = (s.pc.toNat + (if (s.getV x).toNat = kk.toNat then 2 else 0)) % 65536) ∧
    (∃ t, exec (.sneByte x kk) s = .next t ∧ UnchangedBut (fun e => e = .pc) s t ∧
      t.pc.toNat = (s.pc.toNat + (if (s.getV x).toNat = kk.toNat then 0 else 2)) % 65536) ∧
    (∃ t, exec (.seReg x y) s = .next t ∧ UnchangedBut (fun e => e = .pc) s t ∧
      t.pc.toNat = (s.pc.toNat + (if (s.getV x).toNat = (s.getV y).toNat then 2 else 0)) % 65536) ∧
    (∃ t, exec (.sneReg x y) s = .next t ∧ UnchangedBut (fun e => e = .pc) s t ∧
      t.pc.toNat = (s.pc.toNat + (if (s.getV x).toNat = (s.getV y).toNat then 0 else 2)) % 65536)

/-- 2nnn with `SP` below 16 pushes `PC` at `STACK[SP]`, and 00EE with `SP` 1 to 16 takes `PC` from `STACK[SP - 1]` and keeps the entry
(41_control_flow.md R120, R122; that the entry stays is the spec's decision D27). -/
def Obligations.CallPushesAndRetPops : Prop :=
  ∀ (nnn : Addr) (s : State),
    (s.sp.toNat < 16 → ∃ t, exec (.call nnn) s = .next t ∧ t.stack[s.sp.toNat]? = some s.pc ∧
      t.sp.toNat = s.sp.toNat + 1 ∧ t.pc.toNat = nnn.toNat ∧
      UnchangedBut (fun e => e = .stack s.sp.toNat ∨ e = .sp ∨ e = .pc) s t) ∧
    (0 < s.sp.toNat → s.sp.toNat ≤ 16 → ∃ t, exec .ret s = .next t ∧ some t.pc = s.stack[s.sp.toNat - 1]? ∧
      t.sp.toNat = s.sp.toNat - 1 ∧ UnchangedBut (fun e => e = .sp ∨ e = .pc) s t)

/-- 2nnn with `SP` = 16 faults STACK_OVERFLOW and 00EE with `SP` = 0 faults STACK_UNDERFLOW, with no other effect (the spec's decisions
D1, D2, D3); with `SP` 17 to 31, which no run reaches, both are refused (93_implementation_defined.md K24; this model's
form of it, log 2). -/
def Obligations.StackLimitsFault : Prop :=
  ∀ (nnn : Addr) (s : State),
    (s.sp.toNat = 16 → exec (.call nnn) s = .next (FaultState 1#3 s)) ∧
    (s.sp.toNat = 0 → exec .ret s = .next (FaultState 2#3 s)) ∧
    (s.sp.toNat > 16 → exec (.call nnn) s = .refused .stackPointerOutOfRange ∧
      exec .ret s = .refused .stackPointerOutOfRange)

/-- Calling and then returning with the stack as the call left it restores `PC` to the instruction after the call, and
`SP` (41_control_flow.md R122). -/
def Obligations.CallThenReturnRestoresPc : Prop :=
  ∀ (nnn : Addr) (s : State), s.sp.toNat < 16 →
    ∃ t, exec (.call nnn) s = .next t ∧
      ∀ u : State, u.sp = t.sp → u.stack = t.stack → ∃ w, exec .ret u = .next w ∧ w.pc = s.pc ∧ w.sp = s.sp

/-! ### Index and memory (43_index_memory.md) -/

/-- R170: Annn sets `I` to nnn and changes nothing else. -/
def Obligations.LoadIndexSetsI : Prop :=
  ∀ (nnn : Addr) (s : State), decodeWord (0xA#4 ++ nnn) = .ldI nnn ∧
    ∃ t, exec (.ldI nnn) s = .next t ∧ t.i.toNat = nnn.toNat ∧
    UnchangedBut (fun e => e = .i) s t

/-- Fx1E adds `V[x]` to `I` modulo 65536 with no flag, and Fx29 sets `I` to 0x050 + 5 * V[x], not masked (43_index_memory.md R171,
R172; the spec's decisions D6 and D12). -/
def Obligations.IndexArithmetic : Prop :=
  ∀ (x : RegIdx) (s : State),
    (∃ t, exec (.addI x) s = .next t ∧ t.i.toNat = (s.i.toNat + (s.getV x).toNat) % 65536 ∧
      UnchangedBut (fun e => e = .i) s t) ∧
    (∃ t, exec (.ldF x) s = .next t ∧ t.i.toNat = 0x050 + 5 * (s.getV x).toNat ∧
      UnchangedBut (fun e => e = .i) s t)

/-- Fx33 with I + 2 at most 0xFFF stores the decimal digits of `V[x]` at I, I + 1 and I + 2 and changes no other byte and no
register (43_index_memory.md R173); past 0xFFF it faults DATA_BOUNDS (the spec's decision D5). -/
def Obligations.BcdStoresThreeDigits : Prop :=
  ∀ (x : RegIdx) (s : State), s.mem.wf = true →
    (s.i.toNat + 2 ≤ 0xFFF → ∃ t, exec (.ldB x) s = .next t ∧
      (t.readByte (effectiveAddr s 0)).toNat = (s.getV x).toNat / 100 ∧
      (t.readByte (effectiveAddr s 1)).toNat = (s.getV x).toNat / 10 % 10 ∧
      (t.readByte (effectiveAddr s 2)).toNat = (s.getV x).toNat % 10 ∧
      UnchangedBut (fun e => ∃ k, k < 3 ∧ e = .mem (effectiveAddr s k)) s t) ∧
    (s.i.toNat + 2 > 0xFFF → exec (.ldB x) s = .next (FaultState 4#3 s))

/-- Fx55 with I + x at most 0xFFF stores `V[0]` to `V[x]` at I to I + x and changes nothing else, `I` included
(43_index_memory.md R174); past 0xFFF it faults DATA_BOUNDS (the spec's decision D5). -/
def Obligations.StoreRegsWritesTheBlock : Prop :=
  ∀ (x : RegIdx) (s : State), s.mem.wf = true →
    (s.i.toNat + x.toNat ≤ 0xFFF → ∃ t, exec (.storeRegs x) s = .next t ∧
      (∀ z : RegIdx, z.toNat ≤ x.toNat → t.readByte (effectiveAddr s z.toNat) = s.getV z) ∧
      UnchangedBut (fun e => ∃ k, k ≤ x.toNat ∧ e = .mem (effectiveAddr s k)) s t) ∧
    (s.i.toNat + x.toNat > 0xFFF → exec (.storeRegs x) s = .next (FaultState 4#3 s))

/-- Fx65 with I + x at most 0xFFF loads `V[0]` to `V[x]` from I to I + x and changes nothing else, `I` included
(43_index_memory.md R175); past 0xFFF it faults DATA_BOUNDS (the spec's decision D5). -/
def Obligations.LoadRegsReadsTheBlock : Prop :=
  ∀ (x : RegIdx) (s : State),
    (s.i.toNat + x.toNat ≤ 0xFFF → ∃ t, exec (.loadRegs x) s = .next t ∧
      (∀ z : RegIdx, z.toNat ≤ x.toNat → t.getV z = s.readByte (effectiveAddr s z.toNat)) ∧
      UnchangedBut (fun e => ∃ z : RegIdx, z.toNat ≤ x.toNat ∧ e = .v z) s t) ∧
    (s.i.toNat + x.toNat > 0xFFF → exec (.loadRegs x) s = .next (FaultState 4#3 s))

/-- Storing `V[0]` to `V[x]` and later loading them from the same `I`, with memory as the store left it and whatever the
registers then hold, gives the stored values back (43_index_memory.md R175, derived there). -/
def Obligations.StoreThenLoadRestores : Prop :=
  ∀ (x : RegIdx) (s : State), s.mem.wf = true → s.i.toNat + x.toNat ≤ 0xFFF →
    ∃ t, exec (.storeRegs x) s = .next t ∧
      ∀ u : State, u.i = s.i → (∀ a, u.readByte a = t.readByte a) →
        ∃ w, exec (.loadRegs x) u = .next w ∧ ∀ z : RegIdx, z.toNat ≤ x.toNat → w.getV z = s.getV z

/-- A store over code is seen by the next fetch: when Fx55 stores over the two bytes at `PC`, the word fetched there is the two
registers stored, high byte first (20_memory.md R63; the spec's decision D25). -/
def Obligations.StoredCodeIsFetchedNext : Prop :=
  ∀ (x : RegIdx) (s : State) (z : Nat), s.mem.wf = true → s.i.toNat + x.toNat ≤ 0xFFF → z + 1 ≤ x.toNat →
    s.pc.toNat = effectiveAddr s z →
    ∃ t, exec (.storeRegs x) s = .next t ∧
      fetchedWord t = s.getV (BitVec.ofNat 4 z) ++ s.getV (BitVec.ofNat 4 (z + 1))

/-! ### Graphics (44_graphics.md) -/

/-- R190: 00E0, and no other word, turns every cell off and changes nothing else. -/
def Obligations.ClsClearsEveryCell : Prop :=
  (∀ w : Word, decodeWord w = .cls ↔ w = 0x00E0#16) ∧
  ∀ s : State, ∃ t, exec .cls s = .next t ∧ (∀ r c, r < 32 → c < 64 → t.pixel r c = false) ∧
    UnchangedBut (fun e => ∃ r c, r < 32 ∧ c < 64 ∧ e = .pixel r c) s t

/-- Dxyn with its sprite inside memory toggles exactly the cells a set sprite bit falls on, sets `VF` to 1 exactly when one of them was
on and to 0 otherwise, and changes nothing else; past 0xFFF it faults DATA_BOUNDS (44_graphics.md R191 to R193; bit order,
n = 0 and the bounds check are the spec's decisions D5, D13, D14). -/
def Obligations.DrwTogglesCoveredCells : Prop :=
  ∀ (x y : RegIdx) (n : Nibble) (s : State),
    ((n.toNat = 0 ∨ s.i.toNat + n.toNat - 1 ≤ 0xFFF) → ∃ t, exec (.drw x y n) s = .next t ∧
      (∀ r c, r < 32 → c < 64 → (t.pixel r c ≠ s.pixel r c ↔ SpriteCovers s x y n.toNat r c)) ∧
      (t.getV VF = 1#8 ↔ ∃ r c, r < 32 ∧ c < 64 ∧ SpriteCovers s x y n.toNat r c ∧ s.pixel r c = true) ∧
      (t.getV VF = 0#8 ↔ ¬ ∃ r c, r < 32 ∧ c < 64 ∧ SpriteCovers s x y n.toNat r c ∧ s.pixel r c = true) ∧
      UnchangedBut (fun e => e = .v VF ∨ ∃ r c, r < 32 ∧ c < 64 ∧ e = .pixel r c) s t) ∧
    (n.toNat > 0 → s.i.toNat + n.toNat - 1 > 0xFFF → exec (.drw x y n) s = .next (FaultState 4#3 s))

/-- Drawing one sprite twice at one place, with neither coordinate in `VF`, restores every cell; when the first draw met no
lit cell, the second sets `VF` exactly when the sprite has a set bit inside the frame (44_graphics.md R191, its corner
case read as log 12 says). -/
def Obligations.DrawingTwiceRestoresTheDisplay : Prop :=
  ∀ (x y : RegIdx) (n : Nibble) (s : State), x ≠ VF → y ≠ VF →
    (n.toNat = 0 ∨ s.i.toNat + n.toNat - 1 ≤ 0xFFF) →
    ∃ t u, exec (.drw x y n) s = .next t ∧ exec (.drw x y n) t = .next u ∧
      (∀ r c, r < 32 → c < 64 → u.pixel r c = s.pixel r c) ∧
      (t.getV VF = 0#8 → (u.getV VF = 1#8 ↔ ∃ r c, r < 32 ∧ c < 64 ∧ SpriteCovers s x y n.toNat r c))

/-! ### Timers, keypad, no-op (45_timers_keypad.md, 46_undecoded.md) -/

/-- R214, R215: Fx15 and Fx18 copy `V[x]` into `DT` and `ST` and change nothing else. -/
def Obligations.TimerSettersCopyTheRegister : Prop :=
  ∀ (x : RegIdx) (s : State),
    decodeWord (0xF#4 ++ x ++ 0x15#8) = .ldDTVx x ∧ decodeWord (0xF#4 ++ x ++ 0x18#8) = .ldSTVx x ∧
    (∃ t, exec (.ldDTVx x) s = .next t ∧ t.dt = s.getV x ∧ UnchangedBut (fun e => e = .dt) s t) ∧
    (∃ t, exec (.ldSTVx x) s = .next t ∧ t.st = s.getV x ∧ UnchangedBut (fun e => e = .st) s t)

/-- Ex9E and ExA1 with `V[x]` at most 0xF add 2 to `PC` exactly when the key is pressed, or is not (45_timers_keypad.md R210,
R211); above 0xF they fault KEY_RANGE (R217; the spec's decision D8). -/
def Obligations.KeySkipsTestOneKey : Prop :=
  ∀ (x : RegIdx) (s : State),
    ((s.getV x).toNat ≤ 0xF →
      (∃ t, exec (.skp x) s = .next t ∧ UnchangedBut (fun e => e = .pc) s t ∧
        t.pc.toNat = (s.pc.toNat + (if s.keyDown (s.getV x).toNat = true then 2 else 0)) % 65536) ∧
      (∃ t, exec (.sknp x) s = .next t ∧ UnchangedBut (fun e => e = .pc) s t ∧
        t.pc.toNat = (s.pc.toNat + (if s.keyDown (s.getV x).toNat = true then 0 else 2)) % 65536)) ∧
    ((s.getV x).toNat > 0xF →
      exec (.skp x) s = .next (FaultState 5#3 s) ∧ exec (.sknp x) s = .next (FaultState 5#3 s))

/-- Fx0A takes `PC` back by 2 while no key is pressed, and otherwise puts the least pressed key into `V[x]`
(45_timers_keypad.md R213; the least key is the spec's decision D9). -/
def Obligations.WaitForKeyTakesTheLeastKey : Prop :=
  ∀ (x : RegIdx) (s : State),
    ((∀ k, k < 16 → s.keyDown k = false) →
      ∃ t, exec (.ldVxK x) s = .next t ∧ t.pc = s.pc - 2#16 ∧ UnchangedBut (fun e => e = .pc) s t) ∧
    (∀ k, k < 16 → s.keyDown k = true → (∀ j, j < k → s.keyDown j = false) →
      ∃ t, exec (.ldVxK x) s = .next t ∧ (t.getV x).toNat = k ∧ UnchangedBut (fun e => e = .v x) s t)

/-- A waiting Fx0A is a complete cycle: `PC` is as before it, the timers decrement, and nothing else changes but `OPCODE`
(45_timers_keypad.md R213, 60_exceptions.md R263). -/
def Obligations.WaitingCycleRefetches : Prop :=
  ∀ (s : State) (x : RegIdx), s.phase ≠ .halted → s.pc.toNat ≤ 0xFFE → decodeWord (fetchedWord s) = .ldVxK x →
    (∀ k, k < 16 → s.keyDown k = false) →
    step s = .next (CompletedCycle { s with opcode := fetchedWord s })

/-- R230: the no-op handler writes nothing, and its cycle only latches `OPCODE`, advances `PC` by 2 and decrements the
timers. -/
def Obligations.NopOnlyAdvancesTheCycle : Prop :=
  (∀ w : Word, undecoded w = true → decodeWord w = .nop w) ∧
  (∀ (w : Word) (s : State), exec (.nop w) s = .next s) ∧
  (∀ s : State, s.phase ≠ .halted → s.pc.toNat ≤ 0xFFE → undecoded (fetchedWord s) = true →
    step s = .next (CompletedCycle { s with opcode := fetchedWord s, pc := s.pc + 2#16 }))

/-! ### Whole-machine rules -/

/-- A parked program stays parked: every cycle changes only the timers, and `OPCODE` to the jump itself
(70_reset_and_hazards.md R276, 41_control_flow.md R121; the spec's decision D31). -/
def Obligations.ParkedProgramStaysParked : Prop :=
  ∀ s : State, Parked s →
    step s = .next (CompletedCycle { s with opcode := fetchedWord s }) ∧
    Parked (CompletedCycle { s with opcode := fetchedWord s })

/-- When an instruction does not fault it writes only the elements the spec's tables give it: memory is written by Fx33 and Fx55 only,
the display by 00E0 and Dxyn only, the stack by 2nnn only, the keypad, `OPCODE`, `FAULT` and `PHASE` by none
(10_state.md R22, R26 to R30, R35, R37, R38, 20_memory.md R51). -/
def Obligations.EachInstructionWritesOnlyItsElements : Prop :=
  ∀ (i : Instr) (s t : State), s.mem.wf = true → exec i s = .next t → s.phase ≠ .halted → t.phase ≠ .halted →
    UnchangedBut (mayWrite i s) s t

/-- No instruction reads `ST` or `OPCODE`: with other values there, every instruction answers the same next state but for those values
themselves (10_state.md R30, R40). -/
def Obligations.HiddenRegistersAreNotRead : Prop :=
  ∀ (i : Instr) (s t : State) (b : Byte) (w : Word), exec i s = .next t →
    exec i { s with st := b, opcode := w } =
      .next { t with st := (match i with | .ldSTVx x => s.getV x | _ => b), opcode := w }

/-- No instruction sees a stack entry at index `SP` or above: with other entries there, every instruction answers the same next state
but for entries at its own `SP` or above (10_state.md R35). -/
def Obligations.StackAboveDepthIsInvisible : Prop :=
  ∀ (i : Instr) (s t : State) (k : Vector Word 16), (∀ j, j < s.sp.toNat → k[j]? = s.stack[j]?) →
    exec i s = .next t →
    ∃ k' : Vector Word 16, exec i { s with stack := k } = .next { t with stack := k' } ∧
      ∀ j, j < t.sp.toNat → k'[j]? = t.stack[j]?

/-- The host reads every element of the state: two states with canonical memory show the same snapshot exactly when they are the
same state (60_exceptions.md R262; the spec's decision D28, the whole snapshot as log 15 says). -/
def Obligations.SnapshotShowsTheWholeState : Prop :=
  ∀ s t : State, s.mem.wf = true → t.mem.wf = true → (snapshot s = snapshot t ↔ s = t)
end

