-- ==== Sys2Proof/Laws/State.lean ====
section
/-! SUPPORT. What each named update does to each field and to each accessor, so that no proof unfolds a record update. -/

namespace Sys2Proof.Machine

/-! ### `setI` -/

section
variable (s : State) (w : Word)

@[simp] theorem State.setI_v : (s.setI w).v = s.v := rfl
@[simp] theorem State.setI_i : (s.setI w).i = w := rfl
@[simp] theorem State.setI_pc : (s.setI w).pc = s.pc := rfl
@[simp] theorem State.setI_sp : (s.setI w).sp = s.sp := rfl
@[simp] theorem State.setI_stack : (s.setI w).stack = s.stack := rfl
@[simp] theorem State.setI_dt : (s.setI w).dt = s.dt := rfl
@[simp] theorem State.setI_st : (s.setI w).st = s.st := rfl
@[simp] theorem State.setI_opcode : (s.setI w).opcode = s.opcode := rfl
@[simp] theorem State.setI_fault : (s.setI w).fault = s.fault := rfl
@[simp] theorem State.setI_phase : (s.setI w).phase = s.phase := rfl
@[simp] theorem State.setI_pix : (s.setI w).pix = s.pix := rfl
@[simp] theorem State.setI_key : (s.setI w).key = s.key := rfl
@[simp] theorem State.setI_mem : (s.setI w).mem = s.mem := rfl
@[simp] theorem State.setI_rng : (s.setI w).rng = s.rng := rfl
@[simp] theorem State.getV_setI (y : RegIdx) : (s.setI w).getV y = s.getV y := rfl
@[simp] theorem State.readByte_setI (y : Nat) : (s.setI w).readByte y = s.readByte y := rfl
@[simp] theorem State.keyDown_setI (y : Nat) : (s.setI w).keyDown y = s.keyDown y := rfl
@[simp] theorem State.pixel_setI (y z : Nat) : (s.setI w).pixel y z = s.pixel y z := rfl

end

/-! ### `setPc` -/

section
variable (s : State) (w : Word)

@[simp] theorem State.setPc_v : (s.setPc w).v = s.v := rfl
@[simp] theorem State.setPc_i : (s.setPc w).i = s.i := rfl
@[simp] theorem State.setPc_pc : (s.setPc w).pc = w := rfl
@[simp] theorem State.setPc_sp : (s.setPc w).sp = s.sp := rfl
@[simp] theorem State.setPc_stack : (s.setPc w).stack = s.stack := rfl
@[simp] theorem State.setPc_dt : (s.setPc w).dt = s.dt := rfl
@[simp] theorem State.setPc_st : (s.setPc w).st = s.st := rfl
@[simp] theorem State.setPc_opcode : (s.setPc w).opcode = s.opcode := rfl
@[simp] theorem State.setPc_fault : (s.setPc w).fault = s.fault := rfl
@[simp] theorem State.setPc_phase : (s.setPc w).phase = s.phase := rfl
@[simp] theorem State.setPc_pix : (s.setPc w).pix = s.pix := rfl
@[simp] theorem State.setPc_key : (s.setPc w).key = s.key := rfl
@[simp] theorem State.setPc_mem : (s.setPc w).mem = s.mem := rfl
@[simp] theorem State.setPc_rng : (s.setPc w).rng = s.rng := rfl
@[simp] theorem State.getV_setPc (y : RegIdx) : (s.setPc w).getV y = s.getV y := rfl
@[simp] theorem State.readByte_setPc (y : Nat) : (s.setPc w).readByte y = s.readByte y := rfl
@[simp] theorem State.keyDown_setPc (y : Nat) : (s.setPc w).keyDown y = s.keyDown y := rfl
@[simp] theorem State.pixel_setPc (y z : Nat) : (s.setPc w).pixel y z = s.pixel y z := rfl

end

/-! ### `setSp` -/

section
variable (s : State) (d : BitVec 5)

@[simp] theorem State.setSp_v : (s.setSp d).v = s.v := rfl
@[simp] theorem State.setSp_i : (s.setSp d).i = s.i := rfl
@[simp] theorem State.setSp_pc : (s.setSp d).pc = s.pc := rfl
@[simp] theorem State.setSp_sp : (s.setSp d).sp = d := rfl
@[simp] theorem State.setSp_stack : (s.setSp d).stack = s.stack := rfl
@[simp] theorem State.setSp_dt : (s.setSp d).dt = s.dt := rfl
@[simp] theorem State.setSp_st : (s.setSp d).st = s.st := rfl
@[simp] theorem State.setSp_opcode : (s.setSp d).opcode = s.opcode := rfl
@[simp] theorem State.setSp_fault : (s.setSp d).fault = s.fault := rfl
@[simp] theorem State.setSp_phase : (s.setSp d).phase = s.phase := rfl
@[simp] theorem State.setSp_pix : (s.setSp d).pix = s.pix := rfl
@[simp] theorem State.setSp_key : (s.setSp d).key = s.key := rfl
@[simp] theorem State.setSp_mem : (s.setSp d).mem = s.mem := rfl
@[simp] theorem State.setSp_rng : (s.setSp d).rng = s.rng := rfl
@[simp] theorem State.getV_setSp (y : RegIdx) : (s.setSp d).getV y = s.getV y := rfl
@[simp] theorem State.readByte_setSp (y : Nat) : (s.setSp d).readByte y = s.readByte y := rfl
@[simp] theorem State.keyDown_setSp (y : Nat) : (s.setSp d).keyDown y = s.keyDown y := rfl
@[simp] theorem State.pixel_setSp (y z : Nat) : (s.setSp d).pixel y z = s.pixel y z := rfl

end

/-! ### `setStack` -/

section
variable (s : State) (k : Vector Word 16)

@[simp] theorem State.setStack_v : (s.setStack k).v = s.v := rfl
@[simp] theorem State.setStack_i : (s.setStack k).i = s.i := rfl
@[simp] theorem State.setStack_pc : (s.setStack k).pc = s.pc := rfl
@[simp] theorem State.setStack_sp : (s.setStack k).sp = s.sp := rfl
@[simp] theorem State.setStack_stack : (s.setStack k).stack = k := rfl
@[simp] theorem State.setStack_dt : (s.setStack k).dt = s.dt := rfl
@[simp] theorem State.setStack_st : (s.setStack k).st = s.st := rfl
@[simp] theorem State.setStack_opcode : (s.setStack k).opcode = s.opcode := rfl
@[simp] theorem State.setStack_fault : (s.setStack k).fault = s.fault := rfl
@[simp] theorem State.setStack_phase : (s.setStack k).phase = s.phase := rfl
@[simp] theorem State.setStack_pix : (s.setStack k).pix = s.pix := rfl
@[simp] theorem State.setStack_key : (s.setStack k).key = s.key := rfl
@[simp] theorem State.setStack_mem : (s.setStack k).mem = s.mem := rfl
@[simp] theorem State.setStack_rng : (s.setStack k).rng = s.rng := rfl
@[simp] theorem State.getV_setStack (y : RegIdx) : (s.setStack k).getV y = s.getV y := rfl
@[simp] theorem State.readByte_setStack (y : Nat) : (s.setStack k).readByte y = s.readByte y := rfl
@[simp] theorem State.keyDown_setStack (y : Nat) : (s.setStack k).keyDown y = s.keyDown y := rfl
@[simp] theorem State.pixel_setStack (y z : Nat) : (s.setStack k).pixel y z = s.pixel y z := rfl

end

/-! ### `setDt` -/

section
variable (s : State) (b : Byte)

@[simp] theorem State.setDt_v : (s.setDt b).v = s.v := rfl
@[simp] theorem State.setDt_i : (s.setDt b).i = s.i := rfl
@[simp] theorem State.setDt_pc : (s.setDt b).pc = s.pc := rfl
@[simp] theorem State.setDt_sp : (s.setDt b).sp = s.sp := rfl
@[simp] theorem State.setDt_stack : (s.setDt b).stack = s.stack := rfl
@[simp] theorem State.setDt_dt : (s.setDt b).dt = b := rfl
@[simp] theorem State.setDt_st : (s.setDt b).st = s.st := rfl
@[simp] theorem State.setDt_opcode : (s.setDt b).opcode = s.opcode := rfl
@[simp] theorem State.setDt_fault : (s.setDt b).fault = s.fault := rfl
@[simp] theorem State.setDt_phase : (s.setDt b).phase = s.phase := rfl
@[simp] theorem State.setDt_pix : (s.setDt b).pix = s.pix := rfl
@[simp] theorem State.setDt_key : (s.setDt b).key = s.key := rfl
@[simp] theorem State.setDt_mem : (s.setDt b).mem = s.mem := rfl
@[simp] theorem State.setDt_rng : (s.setDt b).rng = s.rng := rfl
@[simp] theorem State.getV_setDt (y : RegIdx) : (s.setDt b).getV y = s.getV y := rfl
@[simp] theorem State.readByte_setDt (y : Nat) : (s.setDt b).readByte y = s.readByte y := rfl
@[simp] theorem State.keyDown_setDt (y : Nat) : (s.setDt b).keyDown y = s.keyDown y := rfl
@[simp] theorem State.pixel_setDt (y z : Nat) : (s.setDt b).pixel y z = s.pixel y z := rfl

end

/-! ### `setSt` -/

section
variable (s : State) (b : Byte)

@[simp] theorem State.setSt_v : (s.setSt b).v = s.v := rfl
@[simp] theorem State.setSt_i : (s.setSt b).i = s.i := rfl
@[simp] theorem State.setSt_pc : (s.setSt b).pc = s.pc := rfl
@[simp] theorem State.setSt_sp : (s.setSt b).sp = s.sp := rfl
@[simp] theorem State.setSt_stack : (s.setSt b).stack = s.stack := rfl
@[simp] theorem State.setSt_dt : (s.setSt b).dt = s.dt := rfl
@[simp] theorem State.setSt_st : (s.setSt b).st = b := rfl
@[simp] theorem State.setSt_opcode : (s.setSt b).opcode = s.opcode := rfl
@[simp] theorem State.setSt_fault : (s.setSt b).fault = s.fault := rfl
@[simp] theorem State.setSt_phase : (s.setSt b).phase = s.phase := rfl
@[simp] theorem State.setSt_pix : (s.setSt b).pix = s.pix := rfl
@[simp] theorem State.setSt_key : (s.setSt b).key = s.key := rfl
@[simp] theorem State.setSt_mem : (s.setSt b).mem = s.mem := rfl
@[simp] theorem State.setSt_rng : (s.setSt b).rng = s.rng := rfl
@[simp] theorem State.getV_setSt (y : RegIdx) : (s.setSt b).getV y = s.getV y := rfl
@[simp] theorem State.readByte_setSt (y : Nat) : (s.setSt b).readByte y = s.readByte y := rfl
@[simp] theorem State.keyDown_setSt (y : Nat) : (s.setSt b).keyDown y = s.keyDown y := rfl
@[simp] theorem State.pixel_setSt (y z : Nat) : (s.setSt b).pixel y z = s.pixel y z := rfl

end

/-! ### `setOpcode` -/

section
variable (s : State) (w : Word)

@[simp] theorem State.setOpcode_v : (s.setOpcode w).v = s.v := rfl
@[simp] theorem State.setOpcode_i : (s.setOpcode w).i = s.i := rfl
@[simp] theorem State.setOpcode_pc : (s.setOpcode w).pc = s.pc := rfl
@[simp] theorem State.setOpcode_sp : (s.setOpcode w).sp = s.sp := rfl
@[simp] theorem State.setOpcode_stack : (s.setOpcode w).stack = s.stack := rfl
@[simp] theorem State.setOpcode_dt : (s.setOpcode w).dt = s.dt := rfl
@[simp] theorem State.setOpcode_st : (s.setOpcode w).st = s.st := rfl
@[simp] theorem State.setOpcode_opcode : (s.setOpcode w).opcode = w := rfl
@[simp] theorem State.setOpcode_fault : (s.setOpcode w).fault = s.fault := rfl
@[simp] theorem State.setOpcode_phase : (s.setOpcode w).phase = s.phase := rfl
@[simp] theorem State.setOpcode_pix : (s.setOpcode w).pix = s.pix := rfl
@[simp] theorem State.setOpcode_key : (s.setOpcode w).key = s.key := rfl
@[simp] theorem State.setOpcode_mem : (s.setOpcode w).mem = s.mem := rfl
@[simp] theorem State.setOpcode_rng : (s.setOpcode w).rng = s.rng := rfl
@[simp] theorem State.getV_setOpcode (y : RegIdx) : (s.setOpcode w).getV y = s.getV y := rfl
@[simp] theorem State.readByte_setOpcode (y : Nat) : (s.setOpcode w).readByte y = s.readByte y := rfl
@[simp] theorem State.keyDown_setOpcode (y : Nat) : (s.setOpcode w).keyDown y = s.keyDown y := rfl
@[simp] theorem State.pixel_setOpcode (y z : Nat) : (s.setOpcode w).pixel y z = s.pixel y z := rfl

end

/-! ### `setFault` -/

section
variable (s : State) (c : BitVec 3)

@[simp] theorem State.setFault_v : (s.setFault c).v = s.v := rfl
@[simp] theorem State.setFault_i : (s.setFault c).i = s.i := rfl
@[simp] theorem State.setFault_pc : (s.setFault c).pc = s.pc := rfl
@[simp] theorem State.setFault_sp : (s.setFault c).sp = s.sp := rfl
@[simp] theorem State.setFault_stack : (s.setFault c).stack = s.stack := rfl
@[simp] theorem State.setFault_dt : (s.setFault c).dt = s.dt := rfl
@[simp] theorem State.setFault_st : (s.setFault c).st = s.st := rfl
@[simp] theorem State.setFault_opcode : (s.setFault c).opcode = s.opcode := rfl
@[simp] theorem State.setFault_fault : (s.setFault c).fault = c := rfl
@[simp] theorem State.setFault_phase : (s.setFault c).phase = s.phase := rfl
@[simp] theorem State.setFault_pix : (s.setFault c).pix = s.pix := rfl
@[simp] theorem State.setFault_key : (s.setFault c).key = s.key := rfl
@[simp] theorem State.setFault_mem : (s.setFault c).mem = s.mem := rfl
@[simp] theorem State.setFault_rng : (s.setFault c).rng = s.rng := rfl
@[simp] theorem State.getV_setFault (y : RegIdx) : (s.setFault c).getV y = s.getV y := rfl
@[simp] theorem State.readByte_setFault (y : Nat) : (s.setFault c).readByte y = s.readByte y := rfl
@[simp] theorem State.keyDown_setFault (y : Nat) : (s.setFault c).keyDown y = s.keyDown y := rfl
@[simp] theorem State.pixel_setFault (y z : Nat) : (s.setFault c).pixel y z = s.pixel y z := rfl

end

/-! ### `setPhase` -/

section
variable (s : State) (p : Phase)

@[simp] theorem State.setPhase_v : (s.setPhase p).v = s.v := rfl
@[simp] theorem State.setPhase_i : (s.setPhase p).i = s.i := rfl
@[simp] theorem State.setPhase_pc : (s.setPhase p).pc = s.pc := rfl
@[simp] theorem State.setPhase_sp : (s.setPhase p).sp = s.sp := rfl
@[simp] theorem State.setPhase_stack : (s.setPhase p).stack = s.stack := rfl
@[simp] theorem State.setPhase_dt : (s.setPhase p).dt = s.dt := rfl
@[simp] theorem State.setPhase_st : (s.setPhase p).st = s.st := rfl
@[simp] theorem State.setPhase_opcode : (s.setPhase p).opcode = s.opcode := rfl
@[simp] theorem State.setPhase_fault : (s.setPhase p).fault = s.fault := rfl
@[simp] theorem State.setPhase_phase : (s.setPhase p).phase = p := rfl
@[simp] theorem State.setPhase_pix : (s.setPhase p).pix = s.pix := rfl
@[simp] theorem State.setPhase_key : (s.setPhase p).key = s.key := rfl
@[simp] theorem State.setPhase_mem : (s.setPhase p).mem = s.mem := rfl
@[simp] theorem State.setPhase_rng : (s.setPhase p).rng = s.rng := rfl
@[simp] theorem State.getV_setPhase (y : RegIdx) : (s.setPhase p).getV y = s.getV y := rfl
@[simp] theorem State.readByte_setPhase (y : Nat) : (s.setPhase p).readByte y = s.readByte y := rfl
@[simp] theorem State.keyDown_setPhase (y : Nat) : (s.setPhase p).keyDown y = s.keyDown y := rfl
@[simp] theorem State.pixel_setPhase (y z : Nat) : (s.setPhase p).pixel y z = s.pixel y z := rfl

end

/-! ### `setPix` -/

section
variable (s : State) (d : Display)

@[simp] theorem State.setPix_v : (s.setPix d).v = s.v := rfl
@[simp] theorem State.setPix_i : (s.setPix d).i = s.i := rfl
@[simp] theorem State.setPix_pc : (s.setPix d).pc = s.pc := rfl
@[simp] theorem State.setPix_sp : (s.setPix d).sp = s.sp := rfl
@[simp] theorem State.setPix_stack : (s.setPix d).stack = s.stack := rfl
@[simp] theorem State.setPix_dt : (s.setPix d).dt = s.dt := rfl
@[simp] theorem State.setPix_st : (s.setPix d).st = s.st := rfl
@[simp] theorem State.setPix_opcode : (s.setPix d).opcode = s.opcode := rfl
@[simp] theorem State.setPix_fault : (s.setPix d).fault = s.fault := rfl
@[simp] theorem State.setPix_phase : (s.setPix d).phase = s.phase := rfl
@[simp] theorem State.setPix_pix : (s.setPix d).pix = d := rfl
@[simp] theorem State.setPix_key : (s.setPix d).key = s.key := rfl
@[simp] theorem State.setPix_mem : (s.setPix d).mem = s.mem := rfl
@[simp] theorem State.setPix_rng : (s.setPix d).rng = s.rng := rfl
@[simp] theorem State.getV_setPix (y : RegIdx) : (s.setPix d).getV y = s.getV y := rfl
@[simp] theorem State.readByte_setPix (y : Nat) : (s.setPix d).readByte y = s.readByte y := rfl
@[simp] theorem State.keyDown_setPix (y : Nat) : (s.setPix d).keyDown y = s.keyDown y := rfl
theorem State.pixel_setPix (y z : Nat) : (s.setPix d).pixel y z = if h : y < 32 then d[y].getLsbD z else false := rfl

end

/-! ### `setKey` -/

section
variable (s : State) (k : Keypad)

@[simp] theorem State.setKey_v : (s.setKey k).v = s.v := rfl
@[simp] theorem State.setKey_i : (s.setKey k).i = s.i := rfl
@[simp] theorem State.setKey_pc : (s.setKey k).pc = s.pc := rfl
@[simp] theorem State.setKey_sp : (s.setKey k).sp = s.sp := rfl
@[simp] theorem State.setKey_stack : (s.setKey k).stack = s.stack := rfl
@[simp] theorem State.setKey_dt : (s.setKey k).dt = s.dt := rfl
@[simp] theorem State.setKey_st : (s.setKey k).st = s.st := rfl
@[simp] theorem State.setKey_opcode : (s.setKey k).opcode = s.opcode := rfl
@[simp] theorem State.setKey_fault : (s.setKey k).fault = s.fault := rfl
@[simp] theorem State.setKey_phase : (s.setKey k).phase = s.phase := rfl
@[simp] theorem State.setKey_pix : (s.setKey k).pix = s.pix := rfl
@[simp] theorem State.setKey_key : (s.setKey k).key = k := rfl
@[simp] theorem State.setKey_mem : (s.setKey k).mem = s.mem := rfl
@[simp] theorem State.setKey_rng : (s.setKey k).rng = s.rng := rfl
@[simp] theorem State.getV_setKey (y : RegIdx) : (s.setKey k).getV y = s.getV y := rfl
@[simp] theorem State.readByte_setKey (y : Nat) : (s.setKey k).readByte y = s.readByte y := rfl
@[simp] theorem State.keyDown_setKey (y : Nat) : (s.setKey k).keyDown y = k.getLsbD y := rfl
@[simp] theorem State.pixel_setKey (y z : Nat) : (s.setKey k).pixel y z = s.pixel y z := rfl

end

/-! ### `setMem` -/

section
variable (s : State) (m : Memory)

@[simp] theorem State.setMem_v : (s.setMem m).v = s.v := rfl
@[simp] theorem State.setMem_i : (s.setMem m).i = s.i := rfl
@[simp] theorem State.setMem_pc : (s.setMem m).pc = s.pc := rfl
@[simp] theorem State.setMem_sp : (s.setMem m).sp = s.sp := rfl
@[simp] theorem State.setMem_stack : (s.setMem m).stack = s.stack := rfl
@[simp] theorem State.setMem_dt : (s.setMem m).dt = s.dt := rfl
@[simp] theorem State.setMem_st : (s.setMem m).st = s.st := rfl
@[simp] theorem State.setMem_opcode : (s.setMem m).opcode = s.opcode := rfl
@[simp] theorem State.setMem_fault : (s.setMem m).fault = s.fault := rfl
@[simp] theorem State.setMem_phase : (s.setMem m).phase = s.phase := rfl
@[simp] theorem State.setMem_pix : (s.setMem m).pix = s.pix := rfl
@[simp] theorem State.setMem_key : (s.setMem m).key = s.key := rfl
@[simp] theorem State.setMem_mem : (s.setMem m).mem = m := rfl
@[simp] theorem State.setMem_rng : (s.setMem m).rng = s.rng := rfl
@[simp] theorem State.getV_setMem (y : RegIdx) : (s.setMem m).getV y = s.getV y := rfl
@[simp] theorem State.readByte_setMem (y : Nat) : (s.setMem m).readByte y = Memory.read m y := rfl
@[simp] theorem State.keyDown_setMem (y : Nat) : (s.setMem m).keyDown y = s.keyDown y := rfl
@[simp] theorem State.pixel_setMem (y z : Nat) : (s.setMem m).pixel y z = s.pixel y z := rfl

end

/-! ### `setRng` -/

section
variable (s : State) (r : Rng)

@[simp] theorem State.setRng_v : (s.setRng r).v = s.v := rfl
@[simp] theorem State.setRng_i : (s.setRng r).i = s.i := rfl
@[simp] theorem State.setRng_pc : (s.setRng r).pc = s.pc := rfl
@[simp] theorem State.setRng_sp : (s.setRng r).sp = s.sp := rfl
@[simp] theorem State.setRng_stack : (s.setRng r).stack = s.stack := rfl
@[simp] theorem State.setRng_dt : (s.setRng r).dt = s.dt := rfl
@[simp] theorem State.setRng_st : (s.setRng r).st = s.st := rfl
@[simp] theorem State.setRng_opcode : (s.setRng r).opcode = s.opcode := rfl
@[simp] theorem State.setRng_fault : (s.setRng r).fault = s.fault := rfl
@[simp] theorem State.setRng_phase : (s.setRng r).phase = s.phase := rfl
@[simp] theorem State.setRng_pix : (s.setRng r).pix = s.pix := rfl
@[simp] theorem State.setRng_key : (s.setRng r).key = s.key := rfl
@[simp] theorem State.setRng_mem : (s.setRng r).mem = s.mem := rfl
@[simp] theorem State.setRng_rng : (s.setRng r).rng = r := rfl
@[simp] theorem State.getV_setRng (y : RegIdx) : (s.setRng r).getV y = s.getV y := rfl
@[simp] theorem State.readByte_setRng (y : Nat) : (s.setRng r).readByte y = s.readByte y := rfl
@[simp] theorem State.keyDown_setRng (y : Nat) : (s.setRng r).keyDown y = s.keyDown y := rfl
@[simp] theorem State.pixel_setRng (y z : Nat) : (s.setRng r).pixel y z = s.pixel y z := rfl

end

/-! ### `setV` -/

section
variable (s : State) (x : RegIdx) (b : Byte)

@[simp] theorem State.setV_i : (s.setV x b).i = s.i := rfl
@[simp] theorem State.setV_pc : (s.setV x b).pc = s.pc := rfl
@[simp] theorem State.setV_sp : (s.setV x b).sp = s.sp := rfl
@[simp] theorem State.setV_stack : (s.setV x b).stack = s.stack := rfl
@[simp] theorem State.setV_dt : (s.setV x b).dt = s.dt := rfl
@[simp] theorem State.setV_st : (s.setV x b).st = s.st := rfl
@[simp] theorem State.setV_opcode : (s.setV x b).opcode = s.opcode := rfl
@[simp] theorem State.setV_fault : (s.setV x b).fault = s.fault := rfl
@[simp] theorem State.setV_phase : (s.setV x b).phase = s.phase := rfl
@[simp] theorem State.setV_pix : (s.setV x b).pix = s.pix := rfl
@[simp] theorem State.setV_key : (s.setV x b).key = s.key := rfl
@[simp] theorem State.setV_mem : (s.setV x b).mem = s.mem := rfl
@[simp] theorem State.setV_rng : (s.setV x b).rng = s.rng := rfl
@[simp] theorem State.readByte_setV (y : Nat) : (s.setV x b).readByte y = s.readByte y := rfl
@[simp] theorem State.keyDown_setV (y : Nat) : (s.setV x b).keyDown y = s.keyDown y := rfl
@[simp] theorem State.pixel_setV (y z : Nat) : (s.setV x b).pixel y z = s.pixel y z := rfl

/-- Reading a register after a register write (R20). -/
theorem State.getV_setV (y : RegIdx) : (s.setV x b).getV y = if y = x then b else s.getV y := by
  simp only [State.getV, State.setV, Vector.getElem_set, BitVec.toNat_inj, eq_comm]

@[simp] theorem State.getV_setV_self : (s.setV x b).getV x = b := by simp [State.getV_setV]

theorem State.getV_setV_ne {y : RegIdx} (h : y ≠ x) : (s.setV x b).getV y = s.getV y := by
  simp [State.getV_setV, h]

end

/-! ### Memory writes on the state -/

section
variable (s : State) (a : Nat) (b : Byte)

@[simp] theorem State.writeByte_v : (s.writeByte a b).v = s.v := rfl
@[simp] theorem State.writeByte_i : (s.writeByte a b).i = s.i := rfl
@[simp] theorem State.writeByte_pc : (s.writeByte a b).pc = s.pc := rfl
@[simp] theorem State.writeByte_sp : (s.writeByte a b).sp = s.sp := rfl
@[simp] theorem State.writeByte_stack : (s.writeByte a b).stack = s.stack := rfl
@[simp] theorem State.writeByte_dt : (s.writeByte a b).dt = s.dt := rfl
@[simp] theorem State.writeByte_st : (s.writeByte a b).st = s.st := rfl
@[simp] theorem State.writeByte_opcode : (s.writeByte a b).opcode = s.opcode := rfl
@[simp] theorem State.writeByte_fault : (s.writeByte a b).fault = s.fault := rfl
@[simp] theorem State.writeByte_phase : (s.writeByte a b).phase = s.phase := rfl
@[simp] theorem State.writeByte_pix : (s.writeByte a b).pix = s.pix := rfl
@[simp] theorem State.writeByte_key : (s.writeByte a b).key = s.key := rfl
@[simp] theorem State.writeByte_mem : (s.writeByte a b).mem = s.mem.write a b := rfl
@[simp] theorem State.writeByte_rng : (s.writeByte a b).rng = s.rng := rfl
@[simp] theorem State.getV_writeByte (y : RegIdx) : (s.writeByte a b).getV y = s.getV y := rfl
@[simp] theorem State.keyDown_writeByte (y : Nat) : (s.writeByte a b).keyDown y = s.keyDown y := rfl
@[simp] theorem State.pixel_writeByte (y z : Nat) : (s.writeByte a b).pixel y z = s.pixel y z := rfl

end

/-- Two states with the same fields are the same state. -/
theorem State.ext_fields {s t : State} (hv : t.v = s.v) (hi : t.i = s.i) (hpc : t.pc = s.pc) (hsp : t.sp = s.sp)
    (hstack : t.stack = s.stack) (hdt : t.dt = s.dt) (hst : t.st = s.st) (hop : t.opcode = s.opcode)
    (hf : t.fault = s.fault) (hph : t.phase = s.phase) (hpix : t.pix = s.pix) (hk : t.key = s.key)
    (hm : t.mem = s.mem) (hr : t.rng = s.rng) : t = s := by
  cases s; cases t; simp_all

end Sys2Proof.Machine
end

