-- ==== Sys2Proof/Laws/Memory.lean ====
section
/-! SUPPORT. The laws of memory: read after write, and that every memory operation keeps the canonical form. -/

namespace Sys2Proof.Machine

/-- A canonical list from `lo` up is canonical from any lower address up. -/
theorem Memory.wfFrom_mono {lo lo' : Nat} (m : Memory) (h : lo' ≤ lo) (hm : Memory.wfFrom lo m = true) :
    Memory.wfFrom lo' m = true := by
  cases m with
  | nil => rfl
  | cons c m =>
    simp only [Memory.wfFrom, Bool.and_eq_true, decide_eq_true_eq] at hm ⊢
    exact ⟨⟨⟨by omega, hm.1.1.2⟩, hm.1.2⟩, hm.2⟩

/-- Below its first address a canonical list lists nothing. -/
theorem Memory.read_below (m : Memory) {lo a : Nat} (hm : Memory.wfFrom lo m = true) (h : a < lo) :
    Memory.read m a = unlistedByte a := by
  induction m generalizing lo with
  | nil => rfl
  | cons c m ih =>
    simp only [Memory.wfFrom, Bool.and_eq_true, decide_eq_true_eq] at hm
    have hne : a ≠ c.1 := by omega
    simp only [Memory.read, hne, if_false]
    exact ih hm.2 (by omega)

/-- Inserting keeps the canonical form. -/
theorem Memory.insert_wfFrom (m : Memory) {lo a : Nat} (u : Byte) (hm : Memory.wfFrom lo m = true) (hlo : lo ≤ a)
    (ha : a < 4096) : Memory.wfFrom lo (Memory.insert m a u) = true := by
  induction m generalizing lo with
  | nil =>
    by_cases hu : u = unlistedByte a <;> simp [Memory.insert, Memory.wfFrom, hu, hlo, ha]
  | cons c m ih =>
    obtain ⟨b, w⟩ := c
    have hm' := hm
    simp only [Memory.wfFrom, Bool.and_eq_true, decide_eq_true_eq] at hm
    obtain ⟨⟨⟨hb, hb'⟩, hw⟩, htail⟩ := hm
    simp only [Memory.insert]
    split
    · split
      · exact hm'
      · rename_i hab hu
        have := Memory.wfFrom_mono (lo' := a + 1) ((b, w) :: m) (Nat.le_refl _)
          (by simp only [Memory.wfFrom, Bool.and_eq_true, decide_eq_true_eq]; exact ⟨⟨⟨hab, hb'⟩, hw⟩, htail⟩)
        rw [Memory.wfFrom, this]
        simp [hlo, ha, hu]
    · split
      · rename_i hab
        subst hab
        split
        · exact Memory.wfFrom_mono m (by omega) htail
        · rename_i hu
          simp [Memory.wfFrom, hlo, ha, hu, htail]
      · rw [Memory.wfFrom, ih htail (by omega)]
        simp [hb, hb', hw]

/-- Reading after inserting into a canonical list. -/
theorem Memory.read_insert (m : Memory) {lo : Nat} (a b : Nat) (u : Byte) (hm : Memory.wfFrom lo m = true) :
    Memory.read (Memory.insert m a u) b = if b = a then u else Memory.read m b := by
  induction m generalizing lo with
  | nil =>
    by_cases hu : u = unlistedByte a <;> by_cases hb : b = a <;> simp [Memory.insert, Memory.read, hu, hb]
  | cons c m ih =>
    obtain ⟨d, w⟩ := c
    have hm' := hm
    simp only [Memory.wfFrom, Bool.and_eq_true, decide_eq_true_eq] at hm
    obtain ⟨⟨⟨_, _⟩, _⟩, htail⟩ := hm
    have hbelow : ∀ e, e ≤ d → Memory.read m e = unlistedByte e := fun e he =>
      Memory.read_below m htail (by omega)
    simp only [Memory.insert]
    split
    · rename_i had
      split
      · rename_i hu
        by_cases hb : b = a
        · subst hb
          have : b ≠ d := by omega
          simp [Memory.read, this, hbelow b (by omega), hu]
        · simp [hb]
      · simp [Memory.read]
    · split
      · rename_i hab
        subst hab
        split
        · rename_i hu
          by_cases hb : b = a
          · subst hb; simp [hbelow b (Nat.le_refl _), hu]
          · simp [Memory.read, hb]
        · by_cases hb : b = a <;> simp [Memory.read, hb]
      · rename_i hne
        by_cases hb : b = d
        · subst hb
          have : b ≠ a := fun h => hne h.symm
          simp [Memory.read, this]
        · simp [Memory.read, hb, ih htail]

/-- A write keeps the canonical form (the one law later proofs cite). -/
theorem Memory.write_wf (m : Memory) (a : Nat) (u : Byte) (hm : m.wf = true) : (m.write a u).wf = true := by
  unfold Memory.write
  split
  · exact Memory.insert_wfFrom m u hm (Nat.zero_le a) ‹_›
  · exact hm

/-- Reading after a write inside the address space (R58). -/
theorem Memory.read_write (m : Memory) {a : Nat} (b : Nat) (u : Byte) (hm : m.wf = true) (ha : a < 4096) :
    (m.write a u).read b = if b = a then u else m.read b := by
  simp only [Memory.write, ha, if_true]
  exact Memory.read_insert m a b u hm

/-- A write never changes any other byte, whatever address it names (R58). -/
theorem Memory.read_write_ne (m : Memory) {a b : Nat} (u : Byte) (hm : m.wf = true) (h : b ≠ a) :
    (m.write a u).read b = m.read b := by
  by_cases ha : a < 4096
  · rw [Memory.read_write m b u hm ha, if_neg h]
  · simp [Memory.write, ha]

/-- Memory after reset is canonical. -/
theorem State.reset_mem_wf : State.reset.mem.wf = true := rfl

/-- The same laws on the state. -/
theorem State.writeByte_wf (s : State) (a : Nat) (u : Byte) (hm : s.mem.wf = true) :
    (s.writeByte a u).mem.wf = true := Memory.write_wf s.mem a u hm

theorem State.readByte_writeByte (s : State) {a : Nat} (b : Nat) (u : Byte) (hm : s.mem.wf = true) (ha : a < 4096) :
    (s.writeByte a u).readByte b = if b = a then u else s.readByte b := Memory.read_write s.mem b u hm ha

end Sys2Proof.Machine
end

