-- ==== Sys2Proof/Laws/Ops.lean ====
section
/-! SUPPORT. One specification lemma per shared operation: everything it can do, for later proofs to cite. -/

namespace Sys2Proof.Machine

/-! ### Faults -/

/-- Everything `unlessFault` can answer. -/
theorem unlessFault_eq_next {check : Option FaultCause} {s t u : State} :
    unlessFault check s t = .next u ↔ (check = none ∧ u = t) ∨ ∃ c, check = some c ∧ u = takeFault c s := by
  cases check <;> simp [unlessFault, eq_comm]

@[simp] theorem unlessFault_none (s t : State) : unlessFault none s t = .next t := rfl

@[simp] theorem unlessFault_some (c : FaultCause) (s t : State) :
    unlessFault (some c) s t = .next (takeFault c s) := rfl

/-- When the range check passes (R56). -/
theorem checkRange_eq_none {a n : Nat} : checkRange a n = none ↔ (n = 0 ∨ a + n - 1 ≤ 0xFFF) := by
  unfold checkRange; split <;> simp <;> omega

/-- When the range check fails, and with which cause (R56). -/
theorem checkRange_eq_some {a n : Nat} {c : FaultCause} :
    checkRange a n = some c ↔ (n > 0 ∧ a + n - 1 > 0xFFF) ∧ c = .dataBounds := by
  unfold checkRange; split <;> simp_all [eq_comm]

/-- A byte of a range that passed the check exists (R52). -/
theorem addr_lt_of_checkRange {a n k : Nat} (h : checkRange a n = none) (hk : k < n) : a + k < 4096 := by
  rw [checkRange_eq_none] at h; omega

theorem checkKey_eq_none {s : State} {x : RegIdx} : checkKey s x = none ↔ (s.getV x).toNat ≤ 0xF := by
  unfold checkKey; split <;> simp <;> omega

theorem checkKey_eq_some {s : State} {x : RegIdx} {c : FaultCause} :
    checkKey s x = some c ↔ (s.getV x).toNat > 0xF ∧ c = .keyRange := by
  unfold checkKey; split <;> simp_all [eq_comm]

theorem checkFetch_eq_none {s : State} : checkFetch s = none ↔ s.pc.toNat ≤ 0xFFE := by
  unfold checkFetch; split <;> simp <;> omega

theorem checkFetch_eq_some {s : State} {c : FaultCause} :
    checkFetch s = some c ↔ s.pc.toNat > 0xFFE ∧ c = .fetchBounds := by
  unfold checkFetch; split <;> simp_all [eq_comm]

/-- A cause's code is 1 to 5 (R32). -/
theorem FaultCause.code_range (c : FaultCause) : 1 ≤ c.code.toNat ∧ c.code.toNat ≤ 5 := by cases c <;> decide

theorem FaultCause.code_ne_zero (c : FaultCause) : c.code ≠ 0#3 := by cases c <;> decide

/-- The whole of fault entry, as one record (R244). -/
theorem takeFault_eq (c : FaultCause) (s : State) :
    takeFault c s = { s with pc := s.pc - 2#16, fault := c.code, phase := .halted } := rfl

theorem enterFault_eq (c : FaultCause) (s : State) :
    enterFault c s = { s with fault := c.code, phase := .halted } := rfl

@[simp] theorem takeFault_phase (c : FaultCause) (s : State) : (takeFault c s).phase = .halted := rfl
@[simp] theorem takeFault_fault (c : FaultCause) (s : State) : (takeFault c s).fault = c.code := rfl
@[simp] theorem takeFault_pc (c : FaultCause) (s : State) : (takeFault c s).pc = s.pc - 2#16 := rfl

/-! ### PC and stack -/

/-- A skip touches only `PC` (R128). -/
theorem skipIf_eq (cond : Bool) (s : State) : skipIf cond s = s.setPc (if cond then s.pc + 2#16 else s.pc) := by
  cases cond <;> rfl

theorem rewindPc_eq (s : State) : rewindPc s = s.setPc (s.pc - 2#16) := rfl

/-- The fetch's advance and the rewind cancel (R104, R213). -/
theorem add_two_sub_two (w : Word) : w + 2#16 - 2#16 = w := by simp

/-- A push touches `STACK[SP]` and `SP` only (R122). -/
theorem pushPc_eq (s : State) (h : s.sp.toNat < 16) :
    pushPc s h = (s.setStack (s.stack.set s.sp.toNat s.pc h)).setSp (s.sp + 1#5) := rfl

/-- A pop touches `SP` and `PC` only (R120, R35). -/
theorem popPc_eq (s : State) (h : s.sp.toNat - 1 < 16) :
    popPc s h = (s.setSp (s.sp - 1#5)).setPc (s.stack[s.sp.toNat - 1]'h) := rfl

/-! ### Flags -/

/-- The register a flag-writing instruction names holds the result, `VF` included (R141). -/
theorem writeResultAndFlag_getV_result (x : RegIdx) (r : Byte) (c : Bool) (s : State) :
    (writeResultAndFlag x r c s).getV x = r := by
  simp [writeResultAndFlag, writeResultAndFlagIn, flagOrder]

/-- `VF` holds the flag unless it is the result's register (R141). -/
theorem writeResultAndFlag_getV_flag {x : RegIdx} (r : Byte) (c : Bool) (s : State) (h : x ≠ VF) :
    (writeResultAndFlag x r c s).getV VF = flagByte c := by
  simp only [writeResultAndFlag, writeResultAndFlagIn, flagOrder]
  rw [State.getV_setV_ne _ _ _ (Ne.symm h), State.getV_setV_self]

/-- Every other register is unchanged (R141). -/
theorem writeResultAndFlag_getV_other {x y : RegIdx} (r : Byte) (c : Bool) (s : State) (hx : y ≠ x) (hf : y ≠ VF) :
    (writeResultAndFlag x r c s).getV y = s.getV y := by
  simp only [writeResultAndFlag, writeResultAndFlagIn, flagOrder]
  rw [State.getV_setV_ne _ _ _ hx, State.getV_setV_ne _ _ _ hf]

/-- Nothing but registers changes (R141). -/
theorem writeResultAndFlag_eq (x : RegIdx) (r : Byte) (c : Bool) (s : State) :
    writeResultAndFlag x r c s = { s with v := (writeResultAndFlag x r c s).v } := rfl

/-! ### Operands as numbers -/

/-- `zext_16(nnn)` keeps the value (R73). -/
theorem addr16_toNat (nnn : Addr) : (addr16 nnn).toNat = nnn.toNat := by
  have := nnn.isLt
  simp [addr16]; omega

/-- `zext_16(V[x])` keeps the value (R10). -/
theorem byte16_toNat (b : Byte) : (byte16 b).toNat = b.toNat := by
  have := b.isLt
  simp [byte16]; omega

/-- The indexed target never wraps (R127). -/
theorem indexedTarget_toNat (s : State) (nnn : Addr) :
    (indexedTarget s nnn).toNat = nnn.toNat + (s.getV 0#4).toNat := by
  have := nnn.isLt
  have := (s.getV 0#4).isLt
  rw [indexedTarget, BitVec.toNat_add, addr16_toNat, byte16_toNat]; omega

/-- The glyph address never wraps (R172). -/
theorem glyphAddr_toNat (d : Byte) : (glyphAddr d).toNat = 0x050 + 5 * d.toNat := by
  have := d.isLt
  simp [glyphAddr, fontBase]; omega

/-- Where a skip leaves `PC` (R128). -/
theorem skipIf_pc_toNat (cond : Bool) (s : State) :
    (skipIf cond s).pc.toNat = (s.pc.toNat + (if cond = true then 2 else 0)) % 65536 := by
  have := s.pc.isLt
  rw [skipIf_eq]
  cases cond
  · simp; omega
  · simp [BitVec.toNat_add]

/-! ### The cycle's ends -/

/-- The fetch's effects as one record (R102 to R104). -/
theorem latch_eq (w : Word) (s : State) : latch w s = { s with opcode := w, phase := .fetched, pc := s.pc + 2#16 } := rfl

/-- A timer counts down as a natural number cut off at 0 (R106). -/
theorem countDown_toNat (t : Byte) : (countDown t).toNat = t.toNat - 1 := by
  unfold countDown
  split
  · rw [BitVec.toNat_sub_of_le (by simp [BitVec.le_def]; omega)]; rfl
  · omega

/-- What ends a cycle (R102): nothing after a fault, else the timer step and Idle. -/
theorem endCycle_eq (s : State) :
    endCycle s = if s.phase = .halted then s
      else { s with dt := countDown s.dt, st := countDown s.st, phase := .idle } := by
  unfold endCycle; split <;> rfl

/-! ### The least pressed key -/

/-- No key is pressed (R213). -/
theorem leastKey_eq_none {s : State} : leastKey s = none ↔ ∀ k, k < 16 → s.keyDown k = false := by
  simp [leastKey, List.find?_eq_none]

/-- The least pressed key (R213). -/
theorem leastKey_eq_some {s : State} {k : Nat} :
    leastKey s = some k ↔ k < 16 ∧ s.keyDown k = true ∧ ∀ j, j < k → s.keyDown j = false := by
  simp [leastKey, List.find?_range_eq_some]
  tauto

end Sys2Proof.Machine
end

