-- ==== Sys2Proof/Laws/Drawing.lean ====
section
/-! SUPPORT. What drawing does to a row and to the display (44_graphics.md R191 to R193), by induction on bits and rows. -/

namespace Sys2Proof.Machine

/-- Column `c` is driven by one of the first `m` bits of a sprite byte drawn at `x0` (R192, R193). -/
def BitsCover (byte : Byte) (x0 m c : Nat) : Prop := ∃ b, b < m ∧ (x0 + b) % 64 = c ∧ byte.getLsbD (7 - b) = true

theorem BitsCover_succ {byte : Byte} {x0 m c : Nat} :
    BitsCover byte x0 (m + 1) c ↔ BitsCover byte x0 m c ∨ ((x0 + m) % 64 = c ∧ byte.getLsbD (7 - m) = true) := by
  constructor
  · rintro ⟨b, hb, h⟩
    by_cases hbm : b = m
    · subst hbm; exact .inr h
    · exact .inl ⟨b, by omega, h⟩
  · rintro (⟨b, hb, h⟩ | h)
    · exact ⟨b, by omega, h⟩
    · exact ⟨m, by omega, h⟩

/-- Two bits of one byte never fall on one column, the sprite being narrower than the display (R193). -/
theorem not_BitsCover_next {byte : Byte} {x0 m : Nat} (hm : m ≤ 7) : ¬ BitsCover byte x0 m ((x0 + m) % 64) := by
  rintro ⟨b, hb, h, _⟩; omega

/-- The first `m` bits of a byte drawn on a row. -/
def drawFirst (byte : Byte) (x0 m : Nat) (acc : BitVec 64 × Bool) : BitVec 64 × Bool :=
  (List.range m).foldl (drawBit byte x0) acc

theorem drawFirst_succ (byte : Byte) (x0 m : Nat) (acc : BitVec 64 × Bool) :
    drawFirst byte x0 (m + 1) acc = drawBit byte x0 (drawFirst byte x0 m acc) m := by
  simp [drawFirst, List.range_succ]

/-- The row and the flag after the first `m` bits. -/
theorem drawFirst_spec (byte : Byte) (x0 m : Nat) (hm : m ≤ 8) (acc : BitVec 64 × Bool) :
    (∀ c, c < 64 → ((drawFirst byte x0 m acc).1.getLsbD c ≠ acc.1.getLsbD c ↔ BitsCover byte x0 m c)) ∧
      ((drawFirst byte x0 m acc).2 = true ↔
        acc.2 = true ∨ ∃ c, c < 64 ∧ BitsCover byte x0 m c ∧ acc.1.getLsbD c = true) := by
  induction m with
  | zero => simp [drawFirst, BitsCover]
  | succ m ih =>
    obtain ⟨ih1, ih2⟩ := ih (by omega)
    have hcol : (x0 + m) % 64 < 64 := Nat.mod_lt _ (by omega)
    have hfresh : (drawFirst byte x0 m acc).1.getLsbD ((x0 + m) % 64) = acc.1.getLsbD ((x0 + m) % 64) := by
      have := (ih1 _ hcol).not.mpr (not_BitsCover_next (by omega))
      simpa using this
    rw [drawFirst_succ]
    unfold drawBit
    split
    · rename_i hbit
      refine ⟨fun c hc => ?_, ?_⟩
      · rw [BitsCover_succ, ← ih1 c hc]
        by_cases hcc : (x0 + m) % 64 = c
        · subst hcc
          simp only [BitVec.getLsbD_xor, BitVec.getLsbD_twoPow, hfresh]
          simp [hbit, hcol]
        · simp only [BitVec.getLsbD_xor, BitVec.getLsbD_twoPow]
          simp [hcc]
      · simp only [Bool.or_eq_true, ih2, hfresh]
        constructor
        · rintro ((h | ⟨c, hc, hcov, hon⟩) | hon)
          · exact .inl h
          · exact .inr ⟨c, hc, BitsCover_succ.mpr (.inl hcov), hon⟩
          · exact .inr ⟨_, hcol, BitsCover_succ.mpr (.inr ⟨rfl, hbit⟩), hon⟩
        · rintro (h | ⟨c, hc, hcov, hon⟩)
          · exact .inl (.inl h)
          · rcases BitsCover_succ.mp hcov with hcov | ⟨hcc, _⟩
            · exact .inl (.inr ⟨c, hc, hcov, hon⟩)
            · subst hcc; exact .inr hon
    · rename_i hbit
      have : ∀ c, BitsCover byte x0 (m + 1) c ↔ BitsCover byte x0 m c := fun c => by
        rw [BitsCover_succ]; simp [hbit]
      simp only [this]
      exact ⟨ih1, ih2⟩

/-- A whole sprite byte on one row (R191). -/
theorem drawBits_spec (byte : Byte) (x0 : Nat) (acc : BitVec 64 × Bool) :
    (∀ c, c < 64 → ((drawBits byte x0 acc).1.getLsbD c ≠ acc.1.getLsbD c ↔ BitsCover byte x0 8 c)) ∧
      ((drawBits byte x0 acc).2 = true ↔
        acc.2 = true ∨ ∃ c, c < 64 ∧ BitsCover byte x0 8 c ∧ acc.1.getLsbD c = true) :=
  drawFirst_spec byte x0 8 (Nat.le_refl 8) acc

/-- Cell `(r, c)` of a display (R37). -/
def cell (d : Display) (r c : Nat) : Bool := if h : r < 32 then d[r].getLsbD c else false

theorem State.pixel_eq_cell (s : State) (r c : Nat) : s.pixel r c = cell s.pix r c := rfl

/-- One sprite row on the display: its own row as `drawBits` says, every other row unchanged, clipped past row 31 (R193). -/
theorem drawRow_spec (byte : Byte) (row x0 : Nat) (acc : Display × Bool) :
    (∀ r c, r < 32 → c < 64 →
        (cell (drawRow byte row x0 acc).1 r c ≠ cell acc.1 r c ↔ r = row ∧ BitsCover byte x0 8 c)) ∧
      ((drawRow byte row x0 acc).2 = true ↔
        acc.2 = true ∨ ∃ c, row < 32 ∧ c < 64 ∧ BitsCover byte x0 8 c ∧ cell acc.1 row c = true) := by
  unfold drawRow
  split
  · rename_i hrow
    obtain ⟨h1, h2⟩ := drawBits_spec byte x0 (acc.1[row], acc.2)
    refine ⟨fun r c hr hc => ?_, ?_⟩
    · by_cases hrr : r = row
      · subst hrr; simpa [cell, hr] using h1 c hc
      · have : ¬ row = r := fun h => hrr h.symm
        simp [cell, hr, hrr, this]
    · simpa [cell, hrow] using h2
  · rename_i hrow
    refine ⟨fun r c hr hc => ?_, ?_⟩
    · have : r ≠ row := by omega
      simp [this]
    · simp [hrow]

/-- Cell `(r, c)` is driven by one of the first `m` rows of the sprite at `I` drawn at `(x0, y0)` (R192, R193). -/
def RowsCover (s : State) (x0 y0 m r c : Nat) : Prop :=
  ∃ j, j < m ∧ y0 + j = r ∧ BitsCover (s.readByte (effectiveAddr s j)) x0 8 c

theorem RowsCover_succ {s : State} {x0 y0 m r c : Nat} :
    RowsCover s x0 y0 (m + 1) r c ↔
      RowsCover s x0 y0 m r c ∨ (y0 + m = r ∧ BitsCover (s.readByte (effectiveAddr s m)) x0 8 c) := by
  constructor
  · rintro ⟨j, hj, h⟩
    by_cases hjm : j = m
    · subst hjm; exact .inr h
    · exact .inl ⟨j, by omega, h⟩
  · rintro (⟨j, hj, h⟩ | h)
    · exact ⟨j, by omega, h⟩
    · exact ⟨m, by omega, h⟩

theorem drawSprite_succ (s : State) (x0 y0 m : Nat) :
    drawSprite s x0 y0 (m + 1) =
      drawRow (s.readByte (effectiveAddr s m)) (y0 + m) x0 (drawSprite s x0 y0 m) := by
  simp [drawSprite, List.range_succ]

/-- The display and the flag after drawing `m` rows: a cell toggles exactly when it is covered, and the flag is set
exactly when a covered cell inside the frame was on (R191). -/
theorem drawSprite_spec (s : State) (x0 y0 m : Nat) :
    (∀ r c, r < 32 → c < 64 →
        (cell (drawSprite s x0 y0 m).1 r c ≠ cell s.pix r c ↔ RowsCover s x0 y0 m r c)) ∧
      ((drawSprite s x0 y0 m).2 = true ↔
        ∃ r c, r < 32 ∧ c < 64 ∧ RowsCover s x0 y0 m r c ∧ cell s.pix r c = true) := by
  induction m with
  | zero => simp [drawSprite, RowsCover]
  | succ m ih =>
    obtain ⟨ih1, ih2⟩ := ih
    obtain ⟨h1, h2⟩ := drawRow_spec (s.readByte (effectiveAddr s m)) (y0 + m) x0 (drawSprite s x0 y0 m)
    rw [drawSprite_succ]
    have hfresh : ∀ c, y0 + m < 32 → c < 64 →
        cell (drawSprite s x0 y0 m).1 (y0 + m) c = cell s.pix (y0 + m) c := fun c hr hc => by
      have := (ih1 _ c hr hc).not.mpr (by rintro ⟨j, hj, hjr, _⟩; omega)
      simpa using this
    refine ⟨fun r c hr hc => ?_, ?_⟩
    · rw [RowsCover_succ]
      by_cases hrow : r = y0 + m
      · subst hrow
        rw [← hfresh c hr hc, h1 _ c hr hc]
        have : ¬ RowsCover s x0 y0 m (y0 + m) c := by rintro ⟨j, hj, hjr, _⟩; omega
        simp [this]
      · have hsame : cell (drawRow (s.readByte (effectiveAddr s m)) (y0 + m) x0 (drawSprite s x0 y0 m)).1 r c
            = cell (drawSprite s x0 y0 m).1 r c := by
          have := (h1 r c hr hc).not.mpr (by simp [hrow])
          simpa using this
        have : ¬ y0 + m = r := fun h => hrow h.symm
        rw [hsame, ih1 r c hr hc]
        simp [this]
    · rw [h2, ih2]
      constructor
      · rintro (⟨r, c, hr, hc, hcov, hon⟩ | ⟨c, hr, hc, hcov, hon⟩)
        · exact ⟨r, c, hr, hc, RowsCover_succ.mpr (.inl hcov), hon⟩
        · exact ⟨y0 + m, c, hr, hc, RowsCover_succ.mpr (.inr ⟨rfl, hcov⟩), by rw [← hfresh c hr hc]; exact hon⟩
      · rintro ⟨r, c, hr, hc, hcov, hon⟩
        rcases RowsCover_succ.mp hcov with hrows | ⟨hrow, hbits⟩
        · exact .inl ⟨r, c, hr, hc, hrows, hon⟩
        · subst hrow; exact .inr ⟨c, hr, hc, hbits, by rw [hfresh c hr hc]; exact hon⟩

end Sys2Proof.Machine
end

