-- ==== Sys2Proof/Laws/Encoding.lean ====
section
/-! SUPPORT. Fields, bytes and format words as numbers, so that encoding facts become arithmetic. -/

namespace Sys2Proof

/-! ### Fields (R72) -/

theorem fieldOp_toNat (w : Word) : (fieldOp w).toNat = w.toNat / 4096 % 16 := by
  simp [fieldOp, BitVec.extractLsb'_toNat, Nat.shiftRight_eq_div_pow]
theorem fieldX_toNat (w : Word) : (fieldX w).toNat = w.toNat / 256 % 16 := by
  simp [fieldX, BitVec.extractLsb'_toNat, Nat.shiftRight_eq_div_pow]
theorem fieldY_toNat (w : Word) : (fieldY w).toNat = w.toNat / 16 % 16 := by
  simp [fieldY, BitVec.extractLsb'_toNat, Nat.shiftRight_eq_div_pow]
theorem fieldN_toNat (w : Word) : (fieldN w).toNat = w.toNat % 16 := by
  simp [fieldN, BitVec.extractLsb'_toNat]
theorem fieldKK_toNat (w : Word) : (fieldKK w).toNat = w.toNat % 256 := by
  simp [fieldKK, BitVec.extractLsb'_toNat]
theorem fieldNNN_toNat (w : Word) : (fieldNNN w).toNat = w.toNat % 4096 := by
  simp [fieldNNN, BitVec.extractLsb'_toNat]

/-! ### Concatenation as arithmetic -/

/-- `a ++ b` puts `a` in the high bits (00_scope.md R10). -/
theorem toNat_append_eq {m n : Nat} (a : BitVec m) (b : BitVec n) : (a ++ b).toNat = a.toNat * 2 ^ n + b.toNat := by
  rw [BitVec.toNat_append, ← Nat.shiftLeft_add_eq_or_of_lt b.isLt, Nat.shiftLeft_eq]

/-- Format A (R71). -/
theorem formatA_toNat (op : BitVec 4) (nnn : Addr) :
    BitVec.toNat (w := 16) (op ++ nnn) = op.toNat * 4096 + nnn.toNat := toNat_append_eq op nnn

/-- Formats XK and XF (R71). -/
theorem formatXK_toNat (op : BitVec 4) (x : RegIdx) (kk : Byte) :
    BitVec.toNat (w := 16) (op ++ x ++ kk) = op.toNat * 4096 + x.toNat * 256 + kk.toNat := by
  refine (toNat_append_eq (op ++ x) kk).trans ?_
  rw [toNat_append_eq op x]; omega

/-- Formats XYF and XYN (R71). -/
theorem formatXY_toNat (op : BitVec 4) (x y : RegIdx) (f : Nibble) :
    BitVec.toNat (w := 16) (op ++ x ++ y ++ f) = op.toNat * 4096 + x.toNat * 256 + y.toNat * 16 + f.toNat := by
  refine (toNat_append_eq (op ++ x ++ y) f).trans ?_
  rw [toNat_append_eq (op ++ x) y, toNat_append_eq op x]; omega

/-! ### A format word is its fields, and a word is its format's fields -/

theorem formatA_fields (op : BitVec 4) (nnn : Addr) :
    fieldOp (op ++ nnn) = op ∧ fieldNNN (op ++ nnn) = nnn := by
  have h := formatA_toNat op nnn
  have := op.isLt; have := nnn.isLt
  constructor <;> apply BitVec.eq_of_toNat_eq
  · rw [fieldOp_toNat, h]; omega
  · rw [fieldNNN_toNat, h]; omega

theorem formatXK_fields (op : BitVec 4) (x : RegIdx) (kk : Byte) :
    fieldOp (op ++ x ++ kk) = op ∧ fieldX (op ++ x ++ kk) = x ∧ fieldKK (op ++ x ++ kk) = kk := by
  have h := formatXK_toNat op x kk
  have := op.isLt; have := x.isLt; have := kk.isLt
  refine ⟨?_, ?_, ?_⟩ <;> apply BitVec.eq_of_toNat_eq
  · rw [fieldOp_toNat, h]; omega
  · rw [fieldX_toNat, h]; omega
  · rw [fieldKK_toNat, h]; omega

theorem formatXY_fields (op : BitVec 4) (x y : RegIdx) (f : Nibble) :
    fieldOp (op ++ x ++ y ++ f) = op ∧ fieldX (op ++ x ++ y ++ f) = x ∧ fieldY (op ++ x ++ y ++ f) = y ∧
      fieldN (op ++ x ++ y ++ f) = f := by
  have h := formatXY_toNat op x y f
  have := op.isLt; have := x.isLt; have := y.isLt; have := f.isLt
  refine ⟨?_, ?_, ?_, ?_⟩ <;> apply BitVec.eq_of_toNat_eq
  · rw [fieldOp_toNat, h]; omega
  · rw [fieldX_toNat, h]; omega
  · rw [fieldY_toNat, h]; omega
  · rw [fieldN_toNat, h]; omega

theorem formatA_of_fields (w : Word) : fieldOp w ++ fieldNNN w = w := by
  apply BitVec.eq_of_toNat_eq
  have := w.isLt
  refine (formatA_toNat _ _).trans ?_
  rw [fieldOp_toNat, fieldNNN_toNat]; omega

theorem formatXK_of_fields (w : Word) : fieldOp w ++ fieldX w ++ fieldKK w = w := by
  apply BitVec.eq_of_toNat_eq
  have := w.isLt
  refine (formatXK_toNat _ _ _).trans ?_
  rw [fieldOp_toNat, fieldX_toNat, fieldKK_toNat]; omega

theorem formatXY_of_fields (w : Word) : fieldOp w ++ fieldX w ++ fieldY w ++ fieldN w = w := by
  apply BitVec.eq_of_toNat_eq
  have := w.isLt
  refine (formatXY_toNat _ _ _ _).trans ?_
  rw [fieldOp_toNat, fieldX_toNat, fieldY_toNat, fieldN_toNat]; omega

/-! ### Bytes (R54) -/

theorem wordOfBytes_toNat (hi lo : Byte) : (wordOfBytes hi lo).toNat = hi.toNat * 256 + lo.toNat :=
  toNat_append_eq hi lo
theorem highByte_toNat (w : Word) : (highByte w).toNat = w.toNat / 256 := by
  have := w.isLt
  simp [highByte, BitVec.extractLsb'_toNat, Nat.shiftRight_eq_div_pow]; omega
theorem lowByte_toNat (w : Word) : (lowByte w).toNat = w.toNat % 256 := by
  simp [lowByte, BitVec.extractLsb'_toNat]

/-- A word's bytes give it back (R54). -/
theorem wordOfBytes_high_low (w : Word) : wordOfBytes (highByte w) (lowByte w) = w := by
  apply BitVec.eq_of_toNat_eq
  rw [wordOfBytes_toNat, highByte_toNat, lowByte_toNat]; omega

/-- Two bytes decode to their word's instruction (R54, R70). -/
theorem decode_pair (hi lo : Byte) (rest : List Byte) :
    decode (hi :: lo :: rest) = .ok (decodeWord (wordOfBytes hi lo), rest) := rfl

end Sys2Proof
end

