-- ==== Sys2Proof/Laws/Interface.lean ====
section
/-! SUPPORT. What the host's outputs show and what an install writes (60_exceptions.md R256 to R265). -/

namespace Sys2Proof.Machine

/-! ### The snapshot, field by field (R262) -/

@[simp] theorem snapshot_v (s : State) : (snapshot s).v = s.v := rfl
@[simp] theorem snapshot_i (s : State) : (snapshot s).i = s.i := rfl
@[simp] theorem snapshot_pc (s : State) : (snapshot s).pc = s.pc := rfl
@[simp] theorem snapshot_sp (s : State) : (snapshot s).sp = s.sp := rfl
@[simp] theorem snapshot_stack (s : State) : (snapshot s).stack = s.stack := rfl
@[simp] theorem snapshot_dt (s : State) : (snapshot s).dt = s.dt := rfl
@[simp] theorem snapshot_st (s : State) : (snapshot s).st = s.st := rfl
@[simp] theorem snapshot_opcode (s : State) : (snapshot s).opcode = s.opcode := rfl
@[simp] theorem snapshot_key (s : State) : (snapshot s).key = s.key := rfl
@[simp] theorem snapshot_fault (s : State) : (snapshot s).fault = s.fault := rfl
@[simp] theorem snapshot_phase (s : State) : (snapshot s).phase = s.phase := rfl
@[simp] theorem snapshot_rng (s : State) : (snapshot s).rng = s.rng := rfl
@[simp] theorem snapshot_pix (s : State) : (snapshot s).pix = displayPort s := by simp only [snapshot]
@[simp] theorem snapshot_mem (s : State) : (snapshot s).mem = (List.range 4096).map s.readByte := by simp only [snapshot]

/-! ### Outputs -/

/-- The display output at flat index `k` (R258). -/
theorem displayPort_getElem? (s : State) {k : Nat} (hk : k < 2048) :
    (displayPort s)[k]? = some (s.pixel (k / 64) (k % 64)) := by
  simp [displayPort, hk]

/-- The display output carries every cell (R37, R258). -/
theorem displayPort_inj {s t : State} (h : displayPort s = displayPort t) : s.pix = t.pix := by
  apply Vector.ext
  intro r hr
  apply BitVec.eq_of_getLsbD_eq
  intro c hc
  have := congrArg (fun l : List Bool => l[r * 64 + c]?) h
  simp only [displayPort_getElem? _ (show r * 64 + c < 2048 by omega), Option.some.injEq] at this
  have hdiv : (r * 64 + c) / 64 = r := by omega
  have hmod : (r * 64 + c) % 64 = c := by omega
  simpa [State.pixel, hdiv, hmod, hr] using this

/-- The snapshot's memory at address `a` (R262). -/
theorem snapshot_mem_getElem? (s : State) {a : Nat} (ha : a < 4096) : (snapshot s).mem[a]? = some (s.readByte a) := by
  simp [ha]

/-- Equal snapshots read alike at every address (R262). -/
theorem readByte_of_snapshot_eq {s t : State} (h : snapshot s = snapshot t) (a : Nat) (ha : a < 4096) :
    s.readByte a = t.readByte a := by
  have := congrArg (fun n : Snapshot => n.mem[a]?) h
  simpa only [snapshot_mem_getElem? _ ha, Option.some.injEq] using this

/-! ### Program install -/

/-- An install changes memory only (R256). -/
theorem installAt_eq (image : List Byte) (a : Nat) (s : State) :
    installAt a image s = s.setMem (installAt a image s).mem := by
  induction image generalizing a s with
  | nil => rfl
  | cons b image ih => rw [installAt, ih]; rfl

/-- An install keeps the canonical form. -/
theorem installAt_wf (image : List Byte) (a : Nat) (s : State) (hm : s.mem.wf = true) :
    (installAt a image s).mem.wf = true := by
  induction image generalizing a s with
  | nil => exact hm
  | cons b image ih => exact ih _ _ (State.writeByte_wf _ _ _ hm)

end Sys2Proof.Machine
end

