-- ==== Sys2Proof/Laws/PerInstr.lean ====
section
/-! SUPPORT. Per-instruction family EncodeSelectsRow: the word `encode` gives carries exactly the fixed bits of its row of 30_encoding.md R82. -/

namespace Sys2Proof.Laws.EncodeSelectsRow

open Sys2Proof

/-- The row of R82 with the constructor's number selects the encoded word; row 35 is the no-op alone. -/
def Statement (i : Instr) : Prop :=
  (∀ r ∈ opcodeRows, r.number = i.rowNumber → (encode i &&& r.mask) = r.pattern) ∧ (i.rowNumber = 35 → ∃ w, i = .nop w)

/-- The numbers of R82's rows are distinct, so one row `r0` is enough to look at. -/
theorem of_row {i : Instr} (k : Nat) (r0 : Row) (hk : i.rowNumber = k) (hlt : k < 35)
    (hrow : ∀ r ∈ opcodeRows, r.number = k → r = r0) (h : (encode i &&& r0.mask) = r0.pattern) : Statement i := by
  refine ⟨fun r hr hn => ?_, fun h35 => absurd (hk.symm.trans h35) (by omega)⟩
  rw [hrow r hr (hn.trans hk)]; exact h

theorem keep4 (f : BitVec 4) : f &&& 15#4 = f := BitVec.and_allOnes
theorem keep8 (f : BitVec 8) : f &&& 255#8 = f := BitVec.and_allOnes

/-- Format A keeps its primary nibble under mask 0xF000 (R71). -/
theorem keepA (op : BitVec 4) (nnn : Addr) :
    ((op ++ nnn : BitVec (4 + 12)) &&& (0xF#4 ++ 0#12)) = op ++ 0#12 := by
  rw [BitVec.and_append]; simp [keep4]

/-- Format XK keeps its primary nibble under mask 0xF000 (R71). -/
theorem keepXK (op : BitVec 4) (x : RegIdx) (kk : Byte) :
    ((op ++ x ++ kk : BitVec (4 + 4 + 8)) &&& (0xF#4 ++ 0#4 ++ 0#8)) = op ++ 0#4 ++ 0#8 := by
  rw [BitVec.and_append, BitVec.and_append]; simp [keep4]

/-- Format XYF keeps its primary and function nibbles under mask 0xF00F (R71). -/
theorem keepXYF (op : BitVec 4) (x y : RegIdx) (f : Nibble) :
    ((op ++ x ++ y ++ f : BitVec (4 + 4 + 4 + 4)) &&& (0xF#4 ++ 0#4 ++ 0#4 ++ 0xF#4)) = op ++ 0#4 ++ 0#4 ++ f := by
  rw [BitVec.and_append, BitVec.and_append, BitVec.and_append]; simp [keep4]

/-- Format XYN keeps its primary nibble under mask 0xF000 (R71). -/
theorem keepXYN (op : BitVec 4) (x y : RegIdx) (n : Nibble) :
    ((op ++ x ++ y ++ n : BitVec (4 + 4 + 4 + 4)) &&& (0xF#4 ++ 0#4 ++ 0#4 ++ 0#4)) = op ++ 0#4 ++ 0#4 ++ 0#4 := by
  rw [BitVec.and_append, BitVec.and_append, BitVec.and_append]; simp [keep4]

/-- Format XF keeps its primary nibble and function byte under mask 0xF0FF (R71). -/
theorem keepXF (op : BitVec 4) (x : RegIdx) (f : Byte) :
    ((op ++ x ++ f : BitVec (4 + 4 + 8)) &&& (0xF#4 ++ 0#4 ++ 0xFF#8)) = op ++ 0#4 ++ f := by
  rw [BitVec.and_append, BitVec.and_append]; simp [keep4, keep8]

theorem cls : Statement .cls :=
  of_row 1 ⟨1, 0xFFFF, 0x00E0⟩ rfl (by decide) (by decide) rfl
theorem ret : Statement .ret :=
  of_row 2 ⟨2, 0xFFFF, 0x00EE⟩ rfl (by decide) (by decide) rfl
theorem jp (nnn : Addr) : Statement (.jp nnn) :=
  of_row 3 ⟨3, 0xF000, 0x1000⟩ rfl (by decide) (by decide) (keepA 0x1#4 nnn)
theorem call (nnn : Addr) : Statement (.call nnn) :=
  of_row 4 ⟨4, 0xF000, 0x2000⟩ rfl (by decide) (by decide) (keepA 0x2#4 nnn)
theorem seByte (x : RegIdx) (kk : Byte) : Statement (.seByte x kk) :=
  of_row 5 ⟨5, 0xF000, 0x3000⟩ rfl (by decide) (by decide) (keepXK 0x3#4 x kk)
theorem sneByte (x : RegIdx) (kk : Byte) : Statement (.sneByte x kk) :=
  of_row 6 ⟨6, 0xF000, 0x4000⟩ rfl (by decide) (by decide) (keepXK 0x4#4 x kk)
theorem seReg (x y : RegIdx) : Statement (.seReg x y) :=
  of_row 7 ⟨7, 0xF00F, 0x5000⟩ rfl (by decide) (by decide) (keepXYF 0x5#4 x y 0x0#4)
theorem ldByte (x : RegIdx) (kk : Byte) : Statement (.ldByte x kk) :=
  of_row 8 ⟨8, 0xF000, 0x6000⟩ rfl (by decide) (by decide) (keepXK 0x6#4 x kk)
theorem addByte (x : RegIdx) (kk : Byte) : Statement (.addByte x kk) :=
  of_row 9 ⟨9, 0xF000, 0x7000⟩ rfl (by decide) (by decide) (keepXK 0x7#4 x kk)
theorem ldReg (x y : RegIdx) : Statement (.ldReg x y) :=
  of_row 10 ⟨10, 0xF00F, 0x8000⟩ rfl (by decide) (by decide) (keepXYF 0x8#4 x y 0x0#4)
theorem orReg (x y : RegIdx) : Statement (.orReg x y) :=
  of_row 11 ⟨11, 0xF00F, 0x8001⟩ rfl (by decide) (by decide) (keepXYF 0x8#4 x y 0x1#4)
theorem andReg (x y : RegIdx) : Statement (.andReg x y) :=
  of_row 12 ⟨12, 0xF00F, 0x8002⟩ rfl (by decide) (by decide) (keepXYF 0x8#4 x y 0x2#4)
theorem xorReg (x y : RegIdx) : Statement (.xorReg x y) :=
  of_row 13 ⟨13, 0xF00F, 0x8003⟩ rfl (by decide) (by decide) (keepXYF 0x8#4 x y 0x3#4)
theorem addReg (x y : RegIdx) : Statement (.addReg x y) :=
  of_row 14 ⟨14, 0xF00F, 0x8004⟩ rfl (by decide) (by decide) (keepXYF 0x8#4 x y 0x4#4)
theorem subReg (x y : RegIdx) : Statement (.subReg x y) :=
  of_row 15 ⟨15, 0xF00F, 0x8005⟩ rfl (by decide) (by decide) (keepXYF 0x8#4 x y 0x5#4)
theorem shr (x y : RegIdx) : Statement (.shr x y) :=
  of_row 16 ⟨16, 0xF00F, 0x8006⟩ rfl (by decide) (by decide) (keepXYF 0x8#4 x y 0x6#4)
theorem subnReg (x y : RegIdx) : Statement (.subnReg x y) :=
  of_row 17 ⟨17, 0xF00F, 0x8007⟩ rfl (by decide) (by decide) (keepXYF 0x8#4 x y 0x7#4)
theorem shl (x y : RegIdx) : Statement (.shl x y) :=
  of_row 18 ⟨18, 0xF00F, 0x800E⟩ rfl (by decide) (by decide) (keepXYF 0x8#4 x y 0xE#4)
theorem sneReg (x y : RegIdx) : Statement (.sneReg x y) :=
  of_row 19 ⟨19, 0xF00F, 0x9000⟩ rfl (by decide) (by decide) (keepXYF 0x9#4 x y 0x0#4)
theorem ldI (nnn : Addr) : Statement (.ldI nnn) :=
  of_row 20 ⟨20, 0xF000, 0xA000⟩ rfl (by decide) (by decide) (keepA 0xA#4 nnn)
theorem jpV0 (nnn : Addr) : Statement (.jpV0 nnn) :=
  of_row 21 ⟨21, 0xF000, 0xB000⟩ rfl (by decide) (by decide) (keepA 0xB#4 nnn)
theorem rnd (x : RegIdx) (kk : Byte) : Statement (.rnd x kk) :=
  of_row 22 ⟨22, 0xF000, 0xC000⟩ rfl (by decide) (by decide) (keepXK 0xC#4 x kk)
theorem drw (x y : RegIdx) (n : Nibble) : Statement (.drw x y n) :=
  of_row 23 ⟨23, 0xF000, 0xD000⟩ rfl (by decide) (by decide) (keepXYN 0xD#4 x y n)
theorem skp (x : RegIdx) : Statement (.skp x) :=
  of_row 24 ⟨24, 0xF0FF, 0xE09E⟩ rfl (by decide) (by decide) (keepXF 0xE#4 x 0x9E#8)
theorem sknp (x : RegIdx) : Statement (.sknp x) :=
  of_row 25 ⟨25, 0xF0FF, 0xE0A1⟩ rfl (by decide) (by decide) (keepXF 0xE#4 x 0xA1#8)
theorem ldVxDT (x : RegIdx) : Statement (.ldVxDT x) :=
  of_row 26 ⟨26, 0xF0FF, 0xF007⟩ rfl (by decide) (by decide) (keepXF 0xF#4 x 0x07#8)
theorem ldVxK (x : RegIdx) : Statement (.ldVxK x) :=
  of_row 27 ⟨27, 0xF0FF, 0xF00A⟩ rfl (by decide) (by decide) (keepXF 0xF#4 x 0x0A#8)
theorem ldDTVx (x : RegIdx) : Statement (.ldDTVx x) :=
  of_row 28 ⟨28, 0xF0FF, 0xF015⟩ rfl (by decide) (by decide) (keepXF 0xF#4 x 0x15#8)
theorem ldSTVx (x : RegIdx) : Statement (.ldSTVx x) :=
  of_row 29 ⟨29, 0xF0FF, 0xF018⟩ rfl (by decide) (by decide) (keepXF 0xF#4 x 0x18#8)
theorem addI (x : RegIdx) : Statement (.addI x) :=
  of_row 30 ⟨30, 0xF0FF, 0xF01E⟩ rfl (by decide) (by decide) (keepXF 0xF#4 x 0x1E#8)
theorem ldF (x : RegIdx) : Statement (.ldF x) :=
  of_row 31 ⟨31, 0xF0FF, 0xF029⟩ rfl (by decide) (by decide) (keepXF 0xF#4 x 0x29#8)
theorem ldB (x : RegIdx) : Statement (.ldB x) :=
  of_row 32 ⟨32, 0xF0FF, 0xF033⟩ rfl (by decide) (by decide) (keepXF 0xF#4 x 0x33#8)
theorem storeRegs (x : RegIdx) : Statement (.storeRegs x) :=
  of_row 33 ⟨33, 0xF0FF, 0xF055⟩ rfl (by decide) (by decide) (keepXF 0xF#4 x 0x55#8)
theorem loadRegs (x : RegIdx) : Statement (.loadRegs x) :=
  of_row 34 ⟨34, 0xF0FF, 0xF065⟩ rfl (by decide) (by decide) (keepXF 0xF#4 x 0x65#8)
theorem nop (w : Word) : Statement (.nop w) :=
  ⟨fun r hr h => absurd h ((by decide : ∀ r ∈ opcodeRows, r.number ≠ 35) r hr), fun _ => ⟨w, rfl⟩⟩

end Sys2Proof.Laws.EncodeSelectsRow
end

