-- ==== Sys2Proof/Laws/Transfers.lean ====
section
/-! SUPPORT. What the byte transfers of Fx33, Fx55 and Fx65 do (43_index_memory.md R173 to R175), by induction on the number of bytes. -/

namespace Sys2Proof.Machine

/-! ### Fx55 -/

@[simp] theorem storeBytes_zero (s : State) : storeBytes 0 s = s := rfl

theorem storeBytes_succ (n : Nat) (s : State) :
    storeBytes (n + 1) s =
      (storeBytes n s).writeByte (effectiveAddr (storeBytes n s) n) ((storeBytes n s).getV (BitVec.ofNat 4 n)) := by
  simp [storeBytes, List.range_succ]

/-- A store transfer changes memory only (R174, R176). -/
theorem storeBytes_eq (n : Nat) (s : State) : storeBytes n s = s.setMem (storeBytes n s).mem := by
  induction n with
  | zero => rfl
  | succ n ih => rw [storeBytes_succ, ih]; rfl

@[simp] theorem storeBytes_i (n : Nat) (s : State) : (storeBytes n s).i = s.i := by rw [storeBytes_eq]; rfl
@[simp] theorem storeBytes_getV (n : Nat) (s : State) (y : RegIdx) : (storeBytes n s).getV y = s.getV y := by
  rw [storeBytes_eq]; rfl

theorem storeBytes_wf (n : Nat) (s : State) (hm : s.mem.wf = true) : (storeBytes n s).mem.wf = true := by
  induction n with
  | zero => exact hm
  | succ n ih => rw [storeBytes_succ]; exact State.writeByte_wf _ _ _ ih

/-- Outside the transferred bytes nothing changes (R174). -/
theorem storeBytes_read_outside (n : Nat) (s : State) {a : Nat} (hm : s.mem.wf = true)
    (h : ∀ k, k < n → a ≠ s.i.toNat + k) : (storeBytes n s).readByte a = s.readByte a := by
  induction n with
  | zero => rfl
  | succ n ih =>
    rw [storeBytes_succ]
    have := Memory.read_write_ne _ (a := effectiveAddr (storeBytes n s) n) (b := a)
      ((storeBytes n s).getV (BitVec.ofNat 4 n)) (storeBytes_wf n s hm) (by simpa [effectiveAddr] using h n (by omega))
    exact this.trans (ih fun k hk => h k (by omega))

/-- Byte `k` of the transfer is register `k` (R174). -/
theorem storeBytes_read (n : Nat) (s : State) {k : Nat} (hm : s.mem.wf = true) (hn : s.i.toNat + n ≤ 4096)
    (hk : k < n) : (storeBytes n s).readByte (s.i.toNat + k) = s.getV (BitVec.ofNat 4 k) := by
  induction n with
  | zero => omega
  | succ n ih =>
    rw [storeBytes_succ, State.readByte_writeByte _ _ _ (storeBytes_wf n s hm) (by simp [effectiveAddr]; omega)]
    by_cases h : k = n
    · subst h; simp [effectiveAddr]
    · simp [effectiveAddr, h]; exact ih (by omega) (by omega)

/-! ### Fx65 -/

@[simp] theorem loadBytes_zero (s : State) : loadBytes 0 s = s := rfl

theorem loadBytes_succ (n : Nat) (s : State) :
    loadBytes (n + 1) s =
      (loadBytes n s).setV (BitVec.ofNat 4 n) ((loadBytes n s).readByte (effectiveAddr (loadBytes n s) n)) := by
  simp [loadBytes, List.range_succ]

/-- A load transfer changes registers only (R175, R176). -/
theorem loadBytes_eq (n : Nat) (s : State) : loadBytes n s = { s with v := (loadBytes n s).v } := by
  induction n with
  | zero => rfl
  | succ n ih => rw [loadBytes_succ, ih]; rfl

@[simp] theorem loadBytes_i (n : Nat) (s : State) : (loadBytes n s).i = s.i := by rw [loadBytes_eq]
@[simp] theorem loadBytes_readByte (n : Nat) (s : State) (a : Nat) : (loadBytes n s).readByte a = s.readByte a := by
  rw [loadBytes_eq]; rfl

/-- Registers below `n` are loaded and the others keep their value (R175). -/
theorem loadBytes_getV (n : Nat) (s : State) (hn : n ≤ 16) (y : RegIdx) :
    (loadBytes n s).getV y = if y.toNat < n then s.readByte (s.i.toNat + y.toNat) else s.getV y := by
  induction n with
  | zero => simp
  | succ n ih =>
    rw [loadBytes_succ, State.getV_setV, ih (by omega)]
    have hy : y = BitVec.ofNat 4 n ↔ y.toNat = n := by
      rw [← BitVec.toNat_inj, BitVec.toNat_ofNat, Nat.mod_eq_of_lt (by omega)]
    simp only [hy, effectiveAddr, loadBytes_i, loadBytes_readByte]
    by_cases h : y.toNat = n
    · simp [h]
    · have : y.toNat < n ↔ y.toNat < n + 1 := by omega
      simp [h, this]

/-! ### Fx33 -/

/-- A BCD store changes memory only (R173, R176). -/
theorem storeBcd_eq (a : Byte) (s : State) : storeBcd a s = s.setMem (storeBcd a s).mem := rfl

theorem storeBcd_wf (a : Byte) (s : State) (hm : s.mem.wf = true) : (storeBcd a s).mem.wf = true :=
  State.writeByte_wf _ _ _ (State.writeByte_wf _ _ _ (State.writeByte_wf _ _ _ hm))

/-- Every byte after a BCD store (R173). -/
theorem storeBcd_read (a : Byte) (s : State) (b : Nat) (hm : s.mem.wf = true) (h : s.i.toNat + 2 < 4096) :
    (storeBcd a s).readByte b =
      if b = s.i.toNat + 2 then ones a else if b = s.i.toNat + 1 then tens a
      else if b = s.i.toNat then hundreds a else s.readByte b := by
  have h1 := State.writeByte_wf s (effectiveAddr s 0) (hundreds a) hm
  have h2 := State.writeByte_wf _ (effectiveAddr s 1) (tens a) h1
  unfold storeBcd
  rw [State.readByte_writeByte _ _ _ h2 (by simp [effectiveAddr]; omega),
    State.readByte_writeByte _ _ _ h1 (by simp [effectiveAddr]; omega),
    State.readByte_writeByte _ _ _ hm (by simp [effectiveAddr]; omega)]
  rfl

/-- The three digits of a byte make it up (R173). -/
theorem bcd_digits (a : Byte) :
    (hundreds a).toNat = a.toNat / 100 ∧ (tens a).toNat = a.toNat / 10 % 10 ∧ (ones a).toNat = a.toNat % 10 := by
  have := a.isLt
  simp only [hundreds, tens, ones, BitVec.toNat_ofNat]
  omega

end Sys2Proof.Machine
end

