-- ==== Sys2Proof/Laws/Step.lean ====
section
/-! SUPPORT. What one handler and one step can answer, said once for later proofs to cite. -/

namespace Sys2Proof.Machine

/-- What every handler keeps when it does not fault: the cycle's own registers, the keypad, and the two well-formedness
facts memory and `SP` carry. -/
structure Kept (s t : State) : Prop where
  phase : t.phase = s.phase
  fault : t.fault = s.fault
  opcode : t.opcode = s.opcode
  key : t.key = s.key
  memory : s.mem.wf = true → t.mem.wf = true
  depth : s.sp.toNat ≤ 16 → t.sp.toNat ≤ 16

theorem Kept.refl (s : State) : Kept s s := ⟨rfl, rfl, rfl, rfl, id, id⟩

/-- A state that differs in registers, `I`, `PC`, timers, display or random source only keeps the rest. -/
theorem Kept.of_eqs {s t : State} (h1 : t.phase = s.phase) (h2 : t.fault = s.fault) (h3 : t.opcode = s.opcode)
    (h4 : t.key = s.key) (h5 : t.mem = s.mem) (h6 : t.sp = s.sp) : Kept s t :=
  ⟨h1, h2, h3, h4, by rw [h5]; exact id, by rw [h6]; exact id⟩

/-- The three things a handler can answer: its own next state, its fault (FETCH_BOUNDS is never a handler's, R241), or the
refusal of an unreachable `SP`. -/
inductive Answers (s : State) (r : Result) : Prop where
  | own (t : State) (h : r = .next t) (kept : Kept s t)
  | fault (c : FaultCause) (h : r = .next (takeFault c s)) (handlers : c ≠ .fetchBounds)
  | refuses (h : r = .refused .stackPointerOutOfRange) (depth : 16 < s.sp.toNat)

theorem Answers.of_check {s t : State} {check : Option FaultCause} (hc : ∀ c, check = some c → c ≠ .fetchBounds)
    (k : Kept s t) : Answers s (unlessFault check s t) := by
  cases check with
  | none => exact .own t rfl k
  | some c => exact .fault c rfl (hc c rfl)

theorem checkRange_ne_fetch {a n : Nat} (c : FaultCause) (h : checkRange a n = some c) : c ≠ .fetchBounds := by
  rw [(checkRange_eq_some.mp h).2]; decide

theorem checkKey_ne_fetch {s : State} {x : RegIdx} (c : FaultCause) (h : checkKey s x = some c) :
    c ≠ .fetchBounds := by
  rw [(checkKey_eq_some.mp h).2]; decide

theorem execRet_answers (s : State) : Answers s (execRet s) := by
  unfold execRet
  split
  · exact .fault _ rfl (by decide)
  · split
    · rename_i h0 h
      refine .own _ rfl ⟨rfl, rfl, rfl, rfl, id, fun hd => ?_⟩
      show (s.sp - 1#5).toNat ≤ 16
      have hne : s.sp.toNat ≠ 0 := fun h => h0 (BitVec.toNat_inj.mp h)
      rw [BitVec.toNat_sub_of_le (by simp [BitVec.le_def]; omega)]
      omega
    · exact .refuses rfl (by omega)

theorem execCall_answers (nnn : Addr) (s : State) : Answers s (execCall nnn s) := by
  unfold execCall
  split
  · exact .fault _ rfl (by decide)
  · split
    · rename_i h
      refine .own _ rfl ⟨rfl, rfl, rfl, rfl, id, fun _ => ?_⟩
      show (s.sp + 1#5).toNat ≤ 16
      rw [BitVec.toNat_add]
      exact Nat.le_trans (Nat.mod_le _ _) (by simpa using h)
    · rename_i h0 h
      have : s.sp.toNat ≠ 16 := fun h => h0 (BitVec.toNat_inj.mp h)
      exact .refuses rfl (by omega)

theorem execLdVxK_answers (x : RegIdx) (s : State) : Answers s (execLdVxK x s) := by
  unfold execLdVxK
  cases leastKey s with
  | none => exact .own _ rfl (.of_eqs rfl rfl rfl rfl rfl rfl)
  | some k => exact .own _ rfl (.of_eqs rfl rfl rfl rfl rfl rfl)

theorem Kept.skipIf (cond : Bool) (s : State) : Kept s (skipIf cond s) := by
  rw [skipIf_eq]; exact .of_eqs rfl rfl rfl rfl rfl rfl

theorem Kept.storeBytes {s : State} (n : Nat) : Kept s (storeBytes n s) := by
  have h := storeBytes_eq n s
  exact ⟨by rw [h]; rfl, by rw [h]; rfl, by rw [h]; rfl, by rw [h]; rfl, storeBytes_wf n s, by rw [h]; exact id⟩

theorem Kept.loadBytes {s : State} (n : Nat) : Kept s (loadBytes n s) := by
  rw [loadBytes_eq]; exact .of_eqs rfl rfl rfl rfl rfl rfl

/-- What `exec` can answer, for every instruction. -/
theorem exec_answers (i : Instr) (s : State) : Answers s (exec i s) := by
  have regs : ∀ {t : State}, t.phase = s.phase → t.fault = s.fault → t.opcode = s.opcode → t.key = s.key →
      t.mem = s.mem → t.sp = s.sp → Answers s (.next t) :=
    fun h1 h2 h3 h4 h5 h6 => .own _ rfl (.of_eqs h1 h2 h3 h4 h5 h6)
  cases i with
  | ret => exact execRet_answers s
  | call nnn => exact execCall_answers nnn s
  | seByte | sneByte | seReg | sneReg => exact .own _ rfl (.skipIf _ s)
  | skp | sknp => exact .of_check checkKey_ne_fetch (.skipIf _ s)
  | ldVxK x => exact execLdVxK_answers x s
  | ldB x => exact .of_check checkRange_ne_fetch ⟨rfl, rfl, rfl, rfl, storeBcd_wf _ s, id⟩
  | storeRegs x => exact .of_check checkRange_ne_fetch (.storeBytes _)
  | loadRegs x => exact .of_check checkRange_ne_fetch (.loadBytes _)
  | drw x y n => exact .of_check checkRange_ne_fetch (.of_eqs rfl rfl rfl rfl rfl rfl)
  | cls | jp | ldByte | addByte | ldReg | orReg | andReg | xorReg | addReg | subReg | shr | subnReg | shl | ldI | jpV0
  | rnd | ldVxDT | ldDTVx | ldSTVx | addI | ldF | nop => exact regs rfl rfl rfl rfl rfl rfl

/-- Everything a step can do when it answers a next state (R101 to R106). -/
theorem step_eq_next {s t : State} :
    step s = .next t ↔
      (s.phase = .halted ∧ t = s) ∨
      (s.phase ≠ .halted ∧ s.pc.toNat > 0xFFE ∧ t = enterFault .fetchBounds s) ∨
      (s.phase ≠ .halted ∧ s.pc.toNat ≤ 0xFFE ∧
        ∃ u, exec (decodeWord (fetchedWord s)) (latch (fetchedWord s) s) = .next u ∧ t = endCycle u) := by
  unfold step
  by_cases hp : s.phase = .halted
  · simp [hp, eq_comm]
  · cases hc : checkFetch s with
    | some c =>
      obtain ⟨hpc, rfl⟩ := checkFetch_eq_some.mp hc
      have : ¬ s.pc.toNat ≤ 0xFFE := by omega
      simp [hp, hpc, this, eq_comm]
    | none =>
      have hpc := checkFetch_eq_none.mp hc
      have : ¬ s.pc.toNat > 0xFFE := by omega
      simp only [hp, hpc, this, if_false, false_and, false_or, ne_eq, not_false_eq_true, true_and, and_false]
      cases exec (decodeWord (fetchedWord s)) (latch (fetchedWord s) s) <;> simp [finish, eq_comm]

/-- A step that runs an instruction: the handler on the latched state, then the end of the cycle. -/
theorem step_of_exec {s u : State} (hp : s.phase ≠ .halted) (hpc : s.pc.toNat ≤ 0xFFE)
    (hu : exec (decodeWord (fetchedWord s)) (latch (fetchedWord s) s) = .next u) : step s = .next (endCycle u) :=
  step_eq_next.mpr (.inr (.inr ⟨hp, hpc, u, hu, rfl⟩))

/-- The fixed interface's placement: the very next step fetches the placed word. -/
theorem withFetchWord_spec (s : State) (w : Word) (hm : s.mem.wf = true) :
    (s.withFetchWord 16 w.toNat).phase ≠ .halted ∧ (s.withFetchWord 16 w.toNat).pc.toNat ≤ 0xFFE ∧
      fetchedWord (s.withFetchWord 16 w.toNat) = w := by
  have hslot : s.fetchSlot.toNat ≤ 0xFFE := by
    unfold State.fetchSlot; split
    · decide
    · omega
  have hw : BitVec.ofNat 16 (w.toNat % 2 ^ 16) = w := by
    rw [Nat.mod_eq_of_lt w.isLt, BitVec.ofNat_toNat, BitVec.setWidth_eq]
  refine ⟨?_, ?_, ?_⟩
  · simp only [State.withFetchWord, State.writeByte_phase, State.setPhase_phase]
    split
    · simp
    · assumption
  · simpa [State.withFetchWord] using hslot
  · have hm1 : ((s.setPc s.fetchSlot).setPhase (if s.phase = .halted then .idle else s.phase)).mem.wf = true := hm
    simp only [fetchedWord, State.withFetchWord, hw, State.writeByte_pc, State.setPhase_pc, State.setPc_pc]
    rw [State.readByte_writeByte _ _ _ (State.writeByte_wf _ _ _ hm1) (by omega),
      State.readByte_writeByte _ _ _ (State.writeByte_wf _ _ _ hm1) (by omega),
      State.readByte_writeByte _ _ _ hm1 (by omega)]
    simp only [Nat.left_eq_add, Nat.succ_ne_self, if_false, if_true]
    exact wordOfBytes_high_low w

end Sys2Proof.Machine
end

