-- ==== Sys2Proof/Tests/Slice0.lean ====
section
/-! SUPPORT. Tests: words written out from 30_encoding.md, the vectors of 95_test_vectors.md (their ids in the comments) on
one step each, and for every statement with hypotheses a named state and operands that meet them. -/

namespace Sys2Proof.Tests

open Sys2Proof.Machine Sys2Proof.Safety

/-! ### Helpers -/

/-- The state after reset with word `w` at 0x200. -/
def at0 (w : Nat) : State := State.reset.withFetchWord 16 w

/-- The state after reset with `PC = pc` and word `w` there. -/
def atPc (pc : Word) (w : Nat) : State := (State.reset.setPc pc).withFetchWord 16 w

/-- `p` holds after one step, and the step answers a next state. -/
def after (s : State) (p : State → Bool) : Bool :=
  match step s with
  | .next t => p t
  | .fault _ => false
  | .refused _ => false

/-- The state after one step. -/
def stepped (s : State) : State :=
  match step s with
  | .next t => t
  | .fault _ => s
  | .refused _ => s

/-- The state an instruction leaves. -/
def ran (i : Instr) (s : State) : State :=
  match exec i s with
  | .next t => t
  | .fault _ => s
  | .refused _ => s

/-- The step answers a next state. -/
theorem stepped_eq {s : State} (h : after s (fun _ => true) = true) : step s = .next (stepped s) := by
  unfold after at h
  unfold stepped
  cases hs : step s <;> simp_all

/-- `exec` answers a next state. -/
def completes (i : Instr) (s : State) : Bool :=
  match exec i s with
  | .next _ => true
  | .fault _ => false
  | .refused _ => false

theorem ran_eq {i : Instr} {s : State} (h : completes i s = true) : exec i s = .next (ran i s) := by
  unfold completes at h
  unfold ran
  cases hs : exec i s <;> simp_all

/-- The columns of one display row that are on. -/
def litColumns (s : State) (r : Nat) : List Nat := (List.range 64).filter (fun c => s.pixel r c)

/-! ### Well-formedness smoke (WellFormed.lean) -/

-- a no-op term holding the word of another instruction stands for no word
theorem test_wf_refuses_nop_of_ld : (Instr.nop 0x6342#16).wf = false := by decide
theorem test_wf_refuses_nop_of_cls : (Instr.nop 0x00E0#16).wf = false := by decide
theorem test_wf_admits_nop : (Instr.nop 0x5121#16).wf = true := by decide
theorem test_decode_refuses_one_byte : decode [0x60#8] = .error .truncated := by decide

/-! ### Decoding: words written out bit by bit from the rows of R82 and the formats of R71 -/

theorem test_decode_0 : decodeWord 0b0000000011100000#16 = .cls ∧ decodeWord 0b0000000011101110#16 = .ret ∧
    decodeWord 0b0000000100100000#16 = .nop 0x0120#16 := by decide
theorem test_decode_1_2 : decodeWord 0b0001101010111100#16 = .jp 0xABC#12 ∧
    decodeWord 0b0010001100000001#16 = .call 0x301#12 := by decide
theorem test_decode_3_4 : decodeWord 0b0011001000010011#16 = .seByte 2#4 0x13#8 ∧
    decodeWord 0b0100111000010010#16 = .sneByte 14#4 0x12#8 := by decide
theorem test_decode_5_9 : decodeWord 0b0101000100100000#16 = .seReg 1#4 2#4 ∧
    decodeWord 0b1001001101000000#16 = .sneReg 3#4 4#4 := by decide
theorem test_decode_6_7 : decodeWord 0b0110001101000010#16 = .ldByte 3#4 0x42#8 ∧
    decodeWord 0b0111000011111110#16 = .addByte 0#4 0xFE#8 := by decide
theorem test_decode_8_logic : decodeWord 0b1000000100100000#16 = .ldReg 1#4 2#4 ∧
    decodeWord 0b1000000100100001#16 = .orReg 1#4 2#4 ∧ decodeWord 0b1000000100100010#16 = .andReg 1#4 2#4 ∧
    decodeWord 0b1000000100100011#16 = .xorReg 1#4 2#4 := by decide
theorem test_decode_8_flags : decodeWord 0b1000000100100100#16 = .addReg 1#4 2#4 ∧
    decodeWord 0b1000000100100101#16 = .subReg 1#4 2#4 ∧ decodeWord 0b1000000100100110#16 = .shr 1#4 2#4 ∧
    decodeWord 0b1000000100100111#16 = .subnReg 1#4 2#4 ∧ decodeWord 0b1000000100101110#16 = .shl 1#4 2#4 := by decide
theorem test_decode_A_B : decodeWord 0b1010000100100011#16 = .ldI 0x123#12 ∧
    decodeWord 0b1011001100000001#16 = .jpV0 0x301#12 := by decide
theorem test_decode_C_D : decodeWord 0b1100010101010011#16 = .rnd 5#4 0x53#8 ∧
    decodeWord 0b1101000100100101#16 = .drw 1#4 2#4 5#4 := by decide
theorem test_decode_E : decodeWord 0b1110011110011110#16 = .skp 7#4 ∧
    decodeWord 0b1110011110100001#16 = .sknp 7#4 := by decide
theorem test_decode_F_timers : decodeWord 0b1111001100000111#16 = .ldVxDT 3#4 ∧
    decodeWord 0b1111001100001010#16 = .ldVxK 3#4 ∧ decodeWord 0b1111001100010101#16 = .ldDTVx 3#4 ∧
    decodeWord 0b1111001100011000#16 = .ldSTVx 3#4 := by decide
theorem test_decode_F_index : decodeWord 0b1111001000011110#16 = .addI 2#4 ∧
    decodeWord 0b1111001000101001#16 = .ldF 2#4 ∧ decodeWord 0b1111001000110011#16 = .ldB 2#4 ∧
    decodeWord 0b1111001001010101#16 = .storeRegs 2#4 ∧ decodeWord 0b1111001001100101#16 = .loadRegs 2#4 := by decide
-- R77, R78, R79: words one bit away from an instruction are no-ops (V13 to V19)
theorem test_decode_near_misses : decodeWord 0x5121#16 = .nop 0x5121#16 ∧ decodeWord 0x9121#16 = .nop 0x9121#16 ∧
    decodeWord 0xE00E#16 = .nop 0xE00E#16 ∧ decodeWord 0xE0F1#16 = .nop 0xE0F1#16 ∧
    decodeWord 0x8018#16 = .nop 0x8018#16 ∧ decodeWord 0x0014#16 = .nop 0x0014#16 := by decide
-- R54: the high byte is the first one
theorem test_decode_bytes : decode [0x1A#8, 0xBC#8, 0x00#8] = .ok (.jp 0xABC#12, [0x00#8]) := by decide
theorem test_decodeTableWord : decodeTableWord 16 0x1ABC = some (.jp 0xABC#12) := by decide

/-! ### The cycle -/

-- V1: an odd PC is fetched from
theorem test_fetch_odd_pc : after (atPc 0x201#16 0x6042) (fun t => t.getV 0#4 == 0x42#8 && t.pc == 0x203#16) = true := by
  decide
-- V2, V3, V4: the last fetchable address, and FETCH_BOUNDS past it
theorem test_fetch_last : after (atPc 0xFFE#16 0x0000) (fun t => t.pc == 0x1000#16 && t.phase == .idle) = true := by decide
theorem test_fetch_bounds : after ((at0 0x1ABC).setPc 0xFFF#16)
    (fun t => t.fault == 3#3 && t.pc == 0xFFF#16 && t.opcode == 0x0000#16 && t.phase == .halted) = true := by decide
-- V5: a halted core ignores the request
theorem test_halted_ignores : after (((at0 0x6042).setPhase .halted).setDt 5#8)
    (fun t => t.dt == 5#8 && t.getV 0#4 == 0#8 && t.pc == 0x200#16) = true := by decide
-- V6: both timers count down
theorem test_timers_tick : after (((at0 0x0000).setDt 1#8).setSt 2#8) (fun t => t.dt == 0#8 && t.st == 1#8) = true := by
  decide
-- V7: no decrement in a faulting cycle
theorem test_no_tick_on_fault : after ((at0 0x00EE).setDt 4#8)
    (fun t => t.dt == 4#8 && t.fault == 2#3 && t.pc == 0x200#16 && t.opcode == 0x00EE#16) = true := by decide

/-! ### Control flow -/

-- V20, V21
theorem test_jp : after (at0 0x1ABC) (fun t => t.pc == 0xABC#16) = true := by decide
theorem test_jp_self : after (at0 0x1200) (fun t => t.pc == 0x200#16) = true := by decide
-- S13, V24, V25
theorem test_call : after ((at0 0x2300).setSp 15#5)
    (fun t => t.stack[15] == 0x202#16 && t.sp == 16#5 && t.pc == 0x300#16) = true := by decide
theorem test_call_overflow : after ((at0 0x2300).setSp 16#5)
    (fun t => t.fault == 1#3 && t.sp == 16#5 && t.pc == 0x200#16) = true := by decide
-- V27, V28
theorem test_ret : after (((atPc 0x300#16 0x00EE).setSp 1#5).setStack (Vector.replicate 16 0x202#16))
    (fun t => t.pc == 0x202#16 && t.sp == 0#5 && t.stack[0] == 0x202#16) = true := by decide
theorem test_ret_underflow : after (at0 0x00EE) (fun t => t.fault == 2#3 && t.pc == 0x200#16) = true := by decide
-- V29, V32
theorem test_se_byte : after ((at0 0x3012).setV 0#4 0x12#8) (fun t => t.pc == 0x204#16) = true ∧
    after ((at0 0x3013).setV 0#4 0x12#8) (fun t => t.pc == 0x202#16) = true := by decide
theorem test_sne_byte : after ((at0 0x4013).setV 0#4 0x12#8) (fun t => t.pc == 0x204#16) = true ∧
    after ((at0 0x4012).setV 0#4 0x12#8) (fun t => t.pc == 0x202#16) = true := by decide
-- S9
theorem test_se_reg : after (((at0 0x5010).setV 0#4 0x12#8).setV 1#4 0x12#8) (fun t => t.pc == 0x204#16) = true ∧
    after (((at0 0x5020).setV 0#4 0x12#8).setV 2#4 0x13#8) (fun t => t.pc == 0x202#16) = true := by decide
theorem test_sne_reg : after (((at0 0x9020).setV 0#4 0x12#8).setV 2#4 0x13#8) (fun t => t.pc == 0x204#16) = true ∧
    after (((at0 0x9010).setV 0#4 0x12#8).setV 1#4 0x12#8) (fun t => t.pc == 0x202#16) = true := by decide
-- V36, V37
theorem test_jp_v0 : after (((at0 0xB300).setV 0#4 0x01#8).setV 3#4 0x40#8) (fun t => t.pc == 0x301#16) = true := by
  decide
theorem test_jp_v0_beyond : after ((at0 0xBFFF).setV 0#4 0xFF#8) (fun t => t.pc == 0x10FE#16) = true := by decide

/-! ### Arithmetic and logic -/

-- V40, V41, V43
theorem test_ld_byte : after (at0 0x6342) (fun t => t.getV 3#4 == 0x42#8) = true := by decide
theorem test_add_byte : after (((at0 0x7001).setV 0#4 0xFF#8).setV VF 0x55#8)
    (fun t => t.getV 0#4 == 0x00#8 && t.getV VF == 0x55#8) = true := by decide
theorem test_ld_reg : after ((at0 0x8010).setV 1#4 0x12#8) (fun t => t.getV 0#4 == 0x12#8) = true := by decide
-- S1, S1b
theorem test_or : after ((((at0 0x8011).setV 0#4 0xF0#8).setV 1#4 0x0F#8).setV VF 1#8)
    (fun t => t.getV 0#4 == 0xFF#8 && t.getV VF == 1#8) = true := by decide
theorem test_and : after ((((at0 0x8012).setV 0#4 0xF0#8).setV 1#4 0x3C#8).setV VF 0x77#8)
    (fun t => t.getV 0#4 == 0x30#8 && t.getV VF == 0x77#8) = true := by decide
theorem test_xor : after ((((at0 0x8013).setV 0#4 0xF0#8).setV 1#4 0x3C#8).setV VF 0x77#8)
    (fun t => t.getV 0#4 == 0xCC#8 && t.getV VF == 0x77#8) = true := by decide
-- S2, V47
theorem test_add_reg : after (((at0 0x8014).setV 0#4 250#8).setV 1#4 10#8)
    (fun t => t.getV 0#4 == 4#8 && t.getV VF == 1#8) = true := by decide
theorem test_add_reg_to_vf : after (((at0 0x8F14).setV VF 200#8).setV 1#4 100#8) (fun t => t.getV VF == 44#8) = true := by
  decide
-- S4, V49
theorem test_sub_reg : after (((at0 0x8015).setV 0#4 5#8).setV 1#4 10#8)
    (fun t => t.getV 0#4 == 251#8 && t.getV VF == 0#8) = true := by decide
theorem test_sub_reg_equal : after (((at0 0x8015).setV 0#4 7#8).setV 1#4 7#8)
    (fun t => t.getV 0#4 == 0#8 && t.getV VF == 1#8) = true := by decide
-- V51, V52
theorem test_subn_reg_borrow : after (((at0 0x8017).setV 0#4 10#8).setV 1#4 5#8)
    (fun t => t.getV 0#4 == 251#8 && t.getV VF == 0#8) = true := by decide
theorem test_subn_reg : after (((at0 0x8017).setV 0#4 5#8).setV 1#4 10#8)
    (fun t => t.getV 0#4 == 5#8 && t.getV VF == 1#8) = true := by decide
-- V54, V55
theorem test_shr : after (((at0 0x8016).setV 0#4 0x80#8).setV 1#4 1#8)
    (fun t => t.getV 0#4 == 0x40#8 && t.getV VF == 0#8 && t.getV 1#4 == 1#8) = true := by decide
theorem test_shr_vf : after ((at0 0x8F06).setV VF 2#8) (fun t => t.getV VF == 1#8) = true := by decide
-- V56, V58
theorem test_shl : after ((at0 0x800E).setV 0#4 0x81#8) (fun t => t.getV 0#4 == 2#8 && t.getV VF == 1#8) = true := by
  decide
theorem test_shl_vf : after ((at0 0x8FFE).setV VF 0x80#8) (fun t => t.getV VF == 0#8) = true := by decide
-- V60: a zero mask gives 0 whatever byte is drawn; the draw is consumed
theorem test_rnd_zero_mask : ∃ t, step (at0 0xC000) = .next t ∧ t.getV 0#4 = 0#8 ∧ t.rng.drawn = 1 :=
  ⟨_, rfl, BitVec.and_zero, rfl⟩

/-! ### Index and memory -/

-- V70, V72, S12, V75
theorem test_ld_i : after (at0 0xA123) (fun t => t.i == 0x123#16) = true := by decide
theorem test_add_i_wraps : after (((at0 0xF01E).setI 0xFFFF#16).setV 0#4 2#8)
    (fun t => t.i == 1#16 && t.getV VF == 0#8) = true := by decide
theorem test_ld_f : after ((at0 0xF029).setV 0#4 0x0A#8) (fun t => t.i == 0x082#16) = true := by decide
theorem test_ld_f_unmasked : after ((at0 0xF029).setV 0#4 0xFF#8) (fun t => t.i == 0x54B#16) = true := by decide
-- S6, V78
theorem test_bcd : after (((at0 0xF033).setI 0x300#16).setV 0#4 234#8)
    (fun t => t.readByte 0x300 == 2#8 && t.readByte 0x301 == 3#8 && t.readByte 0x302 == 4#8) = true := by decide
theorem test_bcd_bounds : after (((at0 0xF033).setI 0xFFE#16).setV 0#4 255#8)
    (fun t => t.fault == 4#3 && t.readByte 0xFFE == 0#8 && t.readByte 0xFFF == 0#8) = true := by decide
-- V80, V82
theorem test_store_regs : after (((((at0 0xF255).setI 0x300#16).setV 0#4 1#8).setV 1#4 2#8).setV 2#4 3#8)
    (fun t => t.readByte 0x300 == 1#8 && t.readByte 0x301 == 2#8 && t.readByte 0x302 == 3#8 && t.i == 0x300#16) = true := by
  decide
theorem test_store_regs_bounds : after ((((at0 0xF155).setI 0xFFF#16).setV 0#4 1#8).setV 1#4 2#8)
    (fun t => t.fault == 4#3 && t.readByte 0xFFF == 0#8) = true := by decide
-- V84: glyph 0 is read from the font; V85
theorem test_load_regs_font : after ((at0 0xF465).setI 0x050#16)
    (fun t => t.getV 0#4 == 0xF0#8 && t.getV 1#4 == 0x90#8 && t.getV 4#4 == 0xF0#8 && t.getV 5#4 == 0#8) = true := by decide
theorem test_load_regs_bounds : after ((at0 0xF065).setI 0x1000#16) (fun t => t.fault == 4#3) = true := by decide

/-! ### Graphics -/

-- V90
theorem test_cls : after (((at0 0x00E0).setPix (Vector.replicate 32 5#64)).setV VF 3#8)
    (fun t => litColumns t 0 == [] && litColumns t 31 == [] && t.getV VF == 3#8) = true := by decide
-- V91: columns wrap; V96: collision
theorem test_drw_wraps : after ((((at0 0xD011).setI 0x300#16).writeByte 0x300 0xFF#8).setV 0#4 60#8)
    (fun t => litColumns t 0 == [0, 1, 2, 3, 60, 61, 62, 63] && t.getV VF == 0#8) = true := by decide
theorem test_drw_collision :
    after ((((at0 0xD231).setI 0x300#16).writeByte 0x300 0xC0#8).setPix ((Vector.replicate 32 0#64).set 0 2#64))
      (fun t => litColumns t 0 == [0] && t.getV VF == 1#8) = true := by decide

/-! ### Timers, keypad, no-op -/

-- V100, V102
theorem test_skp : after (((at0 0xE09E).setV 0#4 5#8).setKey 0x0020#16) (fun t => t.pc == 0x204#16) = true := by decide
theorem test_skp_range : after ((at0 0xE09E).setV 0#4 0x10#8) (fun t => t.fault == 5#3 && t.pc == 0x200#16) = true := by
  decide
-- V103, V104
theorem test_sknp : after ((at0 0xE0A1).setV 0#4 5#8) (fun t => t.pc == 0x204#16) = true ∧
    after (((at0 0xE0A1).setV 0#4 5#8).setKey 0x0020#16) (fun t => t.pc == 0x202#16) = true := by decide
-- V106
theorem test_ld_vx_dt : after ((at0 0xF307).setDt 5#8) (fun t => t.getV 3#4 == 5#8 && t.dt == 4#8) = true := by decide
-- S11, V108
theorem test_wait_key : after ((at0 0xF00A).setDt 3#8)
    (fun t => t.pc == 0x200#16 && t.dt == 2#8 && t.getV 0#4 == 0#8) = true := by decide
theorem test_key_taken : after ((atPc 0x204#16 0xF10A).setKey 0x0088#16)
    (fun t => t.getV 1#4 == 3#8 && t.pc == 0x206#16) = true := by decide
-- V110, V113
theorem test_ld_dt : after ((at0 0xF015).setV 0#4 5#8) (fun t => t.dt == 4#8) = true := by decide
theorem test_ld_st : after ((at0 0xF018).setV 0#4 0x10#8) (fun t => t.st == 0x0F#8 && tone t) = true := by decide
-- V10, V12
theorem test_nop : after ((at0 0x0123).setDt 2#8) (fun t => t.pc == 0x202#16 && t.dt == 1#8) = true := by decide
theorem test_nop_010E : after (((at0 0x010E).setSp 1#5).setStack (Vector.replicate 16 0x300#16))
    (fun t => t.pc == 0x202#16 && t.sp == 1#5) = true := by decide

/-! ### Host interface -/

-- V121 in small: an image is installed at 0x200 and nowhere else
theorem test_install : (install [0x12#8, 0x00#8] State.reset).2 = at0 0x1200 := by decide

-- R262, D28: the host reads every element, the keypad and the phase among them
theorem test_snapshot_key_phase : (snapshot ((State.reset.setKey 0x8001#16).setPhase .halted)).key = 0x8001#16 ∧
    (snapshot ((State.reset.setKey 0x8001#16).setPhase .halted)).phase = .halted := ⟨rfl, rfl⟩

/-! ### Witnesses: states and operands that meet the hypotheses of the statements -/

/-- A state that meets both invariants at the edges: the stack full, `PC` at its highest, halted with the highest code. -/
def edge : State := (((State.reset.setSp 16#5).setPc 0x10FE#16).setFault 5#3).setPhase .halted

theorem test_witness_DecodeInvertsEncode : (Instr.drw 1#4 2#4 15#4).wf = true ∧ (Instr.nop 0xFFFF#16).wf = true := by
  decide

theorem test_witness_StepRunsTheDecodedInstruction :
    (atPc 0xFFE#16 0x6342).phase ≠ .halted ∧ (atPc 0xFFE#16 0x6342).pc.toNat ≤ 0xFFE ∧
    decode [(atPc 0xFFE#16 0x6342).readByte 0xFFE, (atPc 0xFFE#16 0x6342).readByte 0xFFF] = .ok (.ldByte 3#4 0x42#8, []) := by
  decide

theorem test_witness_CycleEntryChecks : edge.phase = .halted ∧
    (State.reset.setPc 0xFFF#16).phase ≠ .halted ∧ (State.reset.setPc 0xFFF#16).pc.toNat > 0xFFE := by decide

-- halted before; faulting; completing
theorem test_witness_TimersDecrementInEveryCompletedCycle :
    step edge = .next edge ∧ edge.phase = .halted ∧
    step (at0 0x00EE) = .next (stepped (at0 0x00EE)) ∧ (stepped (at0 0x00EE)).phase = .halted ∧
    step (at0 0x6342) = .next (stepped (at0 0x6342)) ∧ (at0 0x6342).phase ≠ .halted ∧
    (stepped (at0 0x6342)).phase ≠ .halted :=
  ⟨rfl, rfl, stepped_eq (by decide), by decide, stepped_eq (by decide), by decide, by decide⟩

theorem test_witness_TimerWritesCountInTheirOwnCycle :
    (atPc 0xFFE#16 0xF315).phase ≠ .halted ∧ (atPc 0xFFE#16 0xF315).pc.toNat ≤ 0xFFE ∧
    decodeWord (fetchedWord (atPc 0xFFE#16 0xF315)) = .ldDTVx 3#4 ∧
    decodeWord (fetchedWord (atPc 0#16 0xFF18)) = .ldSTVx 15#4 ∧ (atPc 0#16 0xFF18).phase ≠ .halted ∧
    decodeWord (fetchedWord (at0 0xF007)) = .ldVxDT 0#4 ∧ (at0 0xF007).phase ≠ .halted := by decide

/-- Reset memory is all no-ops, and a no-op does not write `DT`. -/
theorem test_witness_DelayTimerAfterQuietCycles :
    QuietCycles 2 (State.reset.setDt 1#8) (stepped (stepped (State.reset.setDt 1#8))) :=
  .more (by decide) rfl (by decide) (fun x h => by cases h)
    (.more (by decide) rfl (by decide) (fun x h => by cases h) (.none _))

-- one faulting cycle per cause, 1 to 5
theorem test_witness_FaultsArePrecise :
    (stepped ((at0 0x2300).setSp 16#5)).phase = .halted ∧ (stepped (at0 0x00EE)).phase = .halted ∧
    (stepped (State.reset.setPc 0xFFF#16)).phase = .halted ∧ (stepped ((at0 0xF165).setI 0xFFF#16)).phase = .halted ∧
    (stepped ((at0 0xE09E).setV 0#4 0x10#8)).phase = .halted ∧
    step (at0 0x00EE) = .next (stepped (at0 0x00EE)) ∧ (at0 0x00EE).phase ≠ .halted :=
  ⟨by decide, by decide, by decide, by decide, by decide, stepped_eq (by decide), by decide⟩

-- faulting and completing at both ends of `SP`
theorem test_witness_FaultsAreExactlyTheTabled : edge.sp.toNat ≤ 16 ∧ State.reset.sp.toNat ≤ 16 ∧
    faultTable (.call 0x300#12) edge = some 1#3 ∧ faultTable .ret State.reset = some 2#3 ∧
    faultTable (.call 0x300#12) State.reset = none ∧ faultTable .ret edge = none := by decide

theorem test_witness_HaltedUntilReset : edge.phase = .halted ∧
    (∀ seed, HostRequest.construct seed ∉ [HostRequest.install [1#8], .keypad 3#16, .cycle]) ∧
    ∃ t, serveAll [.install [1#8], .keypad 3#16, .cycle] edge = .next t :=
  ⟨rfl, by simp, _, rfl⟩

theorem test_witness_Inv : Inv State.reset ∧ Inv edge :=
  ⟨⟨rfl, by decide, by decide, by decide, by decide⟩, ⟨rfl, by decide, by decide, by decide, by decide⟩⟩

theorem test_witness_PcBounded : PcBounded State.reset ∧ PcBounded edge ∧ edge.pc.toNat = 0x10FE :=
  ⟨⟨by decide, by decide⟩, ⟨by decide, by decide⟩, by decide⟩

/-- A cycle from reset keeps going: the premises of StepKeepsTheMachineInvariant and StepKeepsPcBounded together. -/
theorem test_witness_StepKeeps : Inv (at0 0x2300) ∧ PcBounded (at0 0x2300) ∧
    step (at0 0x2300) = .next (stepped (at0 0x2300)) :=
  ⟨⟨by decide, by decide, by decide, by decide, by decide⟩, ⟨by decide, by decide⟩, stepped_eq (by decide)⟩

theorem test_witness_InstallWritesTheImageOnly : State.reset.mem.wf = true ∧
    (List.replicate 3584 0xAA#8).length ≤ 3584 ∧ (List.replicate 3585 0xAA#8).length > 3584 :=
  ⟨rfl, Nat.le_of_eq List.length_replicate, Nat.le_of_eq List.length_replicate.symm⟩

theorem test_witness_MemoriesThatReadAlikeAreEqual :
    Memory.wf [(0x050, 1#8), (0xFFF, 1#8)] = true ∧ Memory.wf (Memory.write (Memory.write [] 0xFFF 1#8) 0x050 1#8) = true ∧
    Memory.write (Memory.write [] 0xFFF 1#8) 0x050 1#8 = [(0x050, 1#8), (0xFFF, 1#8)] ∧
    Memory.write [(0x050, 1#8)] 0x050 0xF0#8 = [] := by decide

theorem test_witness_SkipsPassOneInstruction : (1#4 : Nibble) ≠ 0x0#4 ∧ (15#4 : Nibble) ≠ 0x0#4 := by decide

theorem test_witness_FlagOrderMattersOnlyForVF : (0#4 : RegIdx) ≠ VF ∧ (14#4 : RegIdx) ≠ VF := by decide

-- the ends of the legal ranges: a call with SP 0 and 15, a return with SP 1 and 16
theorem test_witness_CallPushesAndRetPops : State.reset.sp.toNat < 16 ∧ (State.reset.setSp 15#5).sp.toNat < 16 ∧
    0 < (State.reset.setSp 1#5).sp.toNat ∧ 0 < edge.sp.toNat ∧ edge.sp.toNat ≤ 16 := by decide

theorem test_witness_StackLimitsFault : edge.sp.toNat = 16 ∧ State.reset.sp.toNat = 0 ∧
    (State.reset.setSp 17#5).sp.toNat > 16 ∧ (State.reset.setSp 31#5).sp.toNat > 16 := by decide

-- the state the call left, with its registers and memory changed, meets the premises on the stack
theorem test_witness_CallThenReturnRestoresPc :
    (State.reset.setSp 15#5).sp.toNat < 16 ∧
    exec (.call 0x300#12) (State.reset.setSp 15#5) = .next (ran (.call 0x300#12) (State.reset.setSp 15#5)) ∧
    ((ran (.call 0x300#12) (State.reset.setSp 15#5)).setV 0#4 1#8).sp = (ran (.call 0x300#12) (State.reset.setSp 15#5)).sp ∧
    ((ran (.call 0x300#12) (State.reset.setSp 15#5)).setV 0#4 1#8).stack =
      (ran (.call 0x300#12) (State.reset.setSp 15#5)).stack :=
  ⟨by decide, ran_eq (by decide), rfl, rfl⟩

theorem test_witness_BcdStoresThreeDigits : State.reset.mem.wf = true ∧
    (State.reset.setI 0xFFD#16).i.toNat + 2 ≤ 0xFFF ∧ (State.reset.setI 0xFFE#16).i.toNat + 2 > 0xFFF := by decide

-- the last block that fits and the first that does not, for x = 0 and x = F; the same for Fx65
theorem test_witness_StoreRegsWritesTheBlock : State.reset.mem.wf = true ∧
    (State.reset.setI 0xFFF#16).i.toNat + (0#4 : RegIdx).toNat ≤ 0xFFF ∧
    (State.reset.setI 0xFF0#16).i.toNat + (15#4 : RegIdx).toNat ≤ 0xFFF ∧
    (State.reset.setI 0xFFF#16).i.toNat + (1#4 : RegIdx).toNat > 0xFFF ∧
    (State.reset.setI 0xFF1#16).i.toNat + (15#4 : RegIdx).toNat > 0xFFF := by decide

theorem test_witness_LoadRegsReadsTheBlock :
    (State.reset.setI 0xFF0#16).i.toNat + (15#4 : RegIdx).toNat ≤ 0xFFF ∧
    (State.reset.setI 0x1000#16).i.toNat + (0#4 : RegIdx).toNat > 0xFFF := by decide

-- the registers changed after the store, memory and I as it left them
theorem test_witness_StoreThenLoadRestores : State.reset.mem.wf = true ∧
    (State.reset.setI 0xFFE#16).i.toNat + (1#4 : RegIdx).toNat ≤ 0xFFF ∧
    ((ran (.storeRegs 1#4) (State.reset.setI 0xFFE#16)).setV 0#4 9#8).i = (State.reset.setI 0xFFE#16).i ∧
    (∀ a, ((ran (.storeRegs 1#4) (State.reset.setI 0xFFE#16)).setV 0#4 9#8).readByte a =
      (ran (.storeRegs 1#4) (State.reset.setI 0xFFE#16)).readByte a) :=
  ⟨rfl, by decide, by decide, fun _ => rfl⟩

theorem test_witness_StoredCodeIsFetchedNext : State.reset.mem.wf = true ∧
    (State.reset.setI 0x1FE#16).i.toNat + (3#4 : RegIdx).toNat ≤ 0xFFF ∧ 2 + 1 ≤ (3#4 : RegIdx).toNat ∧
    (State.reset.setI 0x1FE#16).pc.toNat = effectiveAddr (State.reset.setI 0x1FE#16) 2 := by decide

-- an empty sprite anywhere, the last sprites that fit, the first that does not
theorem test_witness_DrwTogglesCoveredCells : (0#4 : Nibble).toNat = 0 ∧
    (State.reset.setI 0xFF1#16).i.toNat + (15#4 : Nibble).toNat - 1 ≤ 0xFFF ∧
    (State.reset.setI 0xFFF#16).i.toNat + (1#4 : Nibble).toNat - 1 ≤ 0xFFF ∧
    (2#4 : Nibble).toNat > 0 ∧ (State.reset.setI 0xFFF#16).i.toNat + (2#4 : Nibble).toNat - 1 > 0xFFF := by decide

theorem test_witness_DrawingTwiceRestoresTheDisplay : (0#4 : RegIdx) ≠ VF ∧ (1#4 : RegIdx) ≠ VF ∧
    (State.reset.setI 0x050#16).i.toNat + (5#4 : Nibble).toNat - 1 ≤ 0xFFF ∧
    (ran (.drw 0#4 1#4 5#4) (State.reset.setI 0x050#16)).getV VF = 0#8 := by decide

theorem test_witness_KeySkipsTestOneKey : ((State.reset.setV 3#4 0xF#8).getV 3#4).toNat ≤ 0xF ∧
    ((State.reset.setV 3#4 0x10#8).getV 3#4).toNat > 0xF := by decide

-- no key; the highest key alone; the lowest key
theorem test_witness_WaitForKeyTakesTheLeastKey : (∀ k, k < 16 → State.reset.keyDown k = false) ∧
    (State.reset.setKey 0x8000#16).keyDown 15 = true ∧
    (∀ j, j < 15 → (State.reset.setKey 0x8000#16).keyDown j = false) ∧
    (State.reset.setKey 0xFFFF#16).keyDown 0 = true := by decide

theorem test_witness_WaitingCycleRefetches : (atPc 0xFFE#16 0xF30A).phase ≠ .halted ∧
    (atPc 0xFFE#16 0xF30A).pc.toNat ≤ 0xFFE ∧ decodeWord (fetchedWord (atPc 0xFFE#16 0xF30A)) = .ldVxK 3#4 ∧
    (∀ k, k < 16 → (atPc 0xFFE#16 0xF30A).keyDown k = false) := by decide

theorem test_witness_NopOnlyAdvancesTheCycle : State.reset.phase ≠ .halted ∧ State.reset.pc.toNat ≤ 0xFFE ∧
    undecoded (fetchedWord State.reset) = true := by decide

theorem test_witness_ParkedProgramStaysParked : Parked (at0 0x1200) :=
  ⟨by decide, by decide, 0x200#12, by decide, by decide⟩

theorem test_witness_EachInstructionWritesOnlyItsElements : State.reset.mem.wf = true ∧ State.reset.phase ≠ .halted ∧
    exec (.storeRegs 2#4) State.reset = .next (ran (.storeRegs 2#4) State.reset) ∧
    (ran (.storeRegs 2#4) State.reset).phase ≠ .halted :=
  ⟨rfl, by decide, ran_eq (by decide), by decide⟩

theorem test_witness_HiddenRegistersAreNotRead :
    exec (.ldSTVx 2#4) State.reset = .next (ran (.ldSTVx 2#4) State.reset) := ran_eq (by decide)

-- an entry above the depth differs, the entries below agree
theorem test_witness_StackAboveDepthIsInvisible :
    (∀ j, j < (State.reset.setSp 1#5).sp.toNat →
      (State.reset.stack.set 1 0xABC#16)[j]? = (State.reset.setSp 1#5).stack[j]?) ∧
    exec .ret (State.reset.setSp 1#5) = .next (ran .ret (State.reset.setSp 1#5)) :=
  ⟨by decide, ran_eq (by decide)⟩

-- canonical memories that list something, and two states that differ in one key only
theorem test_witness_SnapshotShowsTheWholeState : (at0 0x6342).mem.wf = true ∧
    ((at0 0x6342).setKey 0x8000#16).mem.wf = true ∧ at0 0x6342 ≠ (at0 0x6342).setKey 0x8000#16 := by decide

end Sys2Proof.Tests
end

/-! ### Timers over a whole cycle (40_cycle.md R106) -/

namespace Sys2Proof.Machine

/-- A handler that halts a running core has taken a fault: no handler halts it otherwise (R244). -/
theorem eq_takeFault_of_exec_halted {i : Instr} {s u : State} (hs : s.phase ≠ .halted) (hu : exec i s = .next u)
    (halted : u.phase = .halted) : ∃ c, u = takeFault c s := by
  cases exec_answers i s with
  | own t h kept =>
    obtain rfl : t = u := by simpa [h] using hu
    exact absurd (kept.phase.symm.trans halted) hs
  | fault c h => exact ⟨c, by simpa [h, eq_comm] using hu⟩
  | refuses h => simp [h] at hu

theorem endCycle_of_halted {s : State} (h : s.phase = .halted) : endCycle s = s := by
  simp [endCycle_eq, h]

/-- The end of a cycle neither halts the core nor wakes it (R102). -/
theorem endCycle_phase_eq_halted {s : State} : (endCycle s).phase = .halted ↔ s.phase = .halted := by
  by_cases h : s.phase = .halted <;> simp [endCycle_eq, h]

/-- After a handler that did not fault, `DT` ends one down, not below 0 (R106). -/
theorem endCycle_dt_toNat {s : State} (h : s.phase ≠ .halted) : (endCycle s).dt.toNat = s.dt.toNat - 1 := by
  simp [endCycle_eq, h, countDown_toNat]

/-- After a handler that did not fault, `ST` ends one down, not below 0 (R106). -/
theorem endCycle_st_toNat {s : State} (h : s.phase ≠ .halted) : (endCycle s).st.toNat = s.st.toNat - 1 := by
  simp [endCycle_eq, h, countDown_toNat]

/-- A request while halted, a fetch fault and a handler's fault all keep the timers (R101, R106, R244). -/
theorem step_keeps_timers_of_halted {s t : State} (hst : step s = .next t)
    (halted : s.phase = .halted ∨ t.phase = .halted) : t.dt = s.dt ∧ t.st = s.st := by
  obtain ⟨-, rfl⟩ | ⟨-, -, rfl⟩ | ⟨hs, -, u, hu, rfl⟩ := step_eq_next.mp hst
  · exact ⟨rfl, rfl⟩
  · exact ⟨rfl, rfl⟩
  · have huHalted : u.phase = .halted := endCycle_phase_eq_halted.mp (halted.resolve_left hs)
    obtain ⟨c, rfl⟩ := eq_takeFault_of_exec_halted (by simp [latch_eq]) hu huHalted
    rw [endCycle_of_halted huHalted]
    exact ⟨rfl, rfl⟩

/-- A step that starts and ends unhalted is a handler's run without a fault, then the end of the cycle (R102). -/
theorem exec_of_step_completed {s t : State} (hst : step s = .next t) (hs : s.phase ≠ .halted)
    (ht : t.phase ≠ .halted) :
    ∃ u, exec (decodeWord (fetchedWord s)) (latch (fetchedWord s) s) = .next u ∧ u.phase ≠ .halted ∧
      t = endCycle u := by
  obtain ⟨h, -⟩ | ⟨-, -, rfl⟩ | ⟨-, -, u, hu, rfl⟩ := step_eq_next.mp hst
  · exact absurd h hs
  · exact absurd rfl ht
  · exact ⟨u, hu, mt endCycle_phase_eq_halted.mpr ht, rfl⟩

/-- Settles O8: a halting step is a request while halted or a fault, which keep the timers, and any other step is a
handler's run and then one count down of each timer. -/
theorem timersDecrementInEveryCompletedCycle : Obligations.TimersDecrementInEveryCompletedCycle := by
  intro s t hst
  refine ⟨step_keeps_timers_of_halted hst, fun hs ht => ?_⟩
  obtain ⟨u, hu, huRuns, rfl⟩ := exec_of_step_completed hst hs ht
  exact ⟨u, hu, endCycle_dt_toNat huRuns, endCycle_st_toNat huRuns⟩

end Sys2Proof.Machine

/-! ### Jump and skips (41_control_flow.md R121, R123 to R126, R128) -/

namespace Sys2Proof

/-- Primary nibble 1 selects the jump (R81, R82 row 3). -/
theorem decodeWord_jp (nnn : Addr) : decodeWord (0x1#4 ++ nnn) = .jp nnn := by
  obtain ⟨hop, hnnn⟩ := formatA_fields 0x1#4 nnn
  simp [decodeWord, hop, hnnn]

/-- Primary nibble 3 selects the skip on an equal byte (R81, R82 row 5). -/
theorem decodeWord_seByte (x : RegIdx) (kk : Byte) : decodeWord (0x3#4 ++ x ++ kk) = .seByte x kk := by
  obtain ⟨hop, hx, hkk⟩ := formatXK_fields 0x3#4 x kk
  simp [decodeWord, hop, hx, hkk]

/-- Primary nibble 4 selects the skip on an unequal byte (R81, R82 row 6). -/
theorem decodeWord_sneByte (x : RegIdx) (kk : Byte) : decodeWord (0x4#4 ++ x ++ kk) = .sneByte x kk := by
  obtain ⟨hop, hx, hkk⟩ := formatXK_fields 0x4#4 x kk
  simp [decodeWord, hop, hx, hkk]

/-- Under primary nibble 5 only the low nibble 0 selects the register skip (R79, R82 row 7). -/
theorem decodeWord_op5 (x y : RegIdx) (f : Nibble) : decodeWord (0x5#4 ++ x ++ y ++ f) =
    if f = 0x0#4 then .seReg x y else .nop (0x5#4 ++ x ++ y ++ f) := by
  obtain ⟨hop, hx, hy, hf⟩ := formatXY_fields 0x5#4 x y f
  simp [decodeWord, hop, hx, hy, hf]

/-- Under primary nibble 9 only the low nibble 0 selects the register skip (R79, R82 row 19). -/
theorem decodeWord_op9 (x y : RegIdx) (f : Nibble) : decodeWord (0x9#4 ++ x ++ y ++ f) =
    if f = 0x0#4 then .sneReg x y else .nop (0x9#4 ++ x ++ y ++ f) := by
  obtain ⟨hop, hx, hy, hf⟩ := formatXY_fields 0x9#4 x y f
  simp [decodeWord, hop, hx, hy, hf]

end Sys2Proof

namespace Sys2Proof.Machine

open Sys2Proof.Safety

/-- A write of `PC` is seen in `PC` alone. -/
theorem setPc_unchangedBut_pc (s : State) (w : Word) : UnchangedBut (fun e => e = .pc) s (s.setPc w) := by
  intro e he
  cases e with
  | pc => exact absurd rfl he
  | _ => rfl

theorem skipIf_unchangedBut_pc (cond : Bool) (s : State) : UnchangedBut (fun e => e = .pc) s (skipIf cond s) :=
  skipIf_eq cond s ▸ setPc_unchangedBut_pc s _

/-- The skip on equal bytes, the condition read as numbers (R123, R125). -/
theorem skipIf_beq_pc_toNat (a b : Byte) (s : State) :
    (skipIf (a == b) s).pc.toNat = (s.pc.toNat + (if a.toNat = b.toNat then 2 else 0)) % 65536 := by
  simp [skipIf_pc_toNat, BitVec.toNat_inj]

/-- The skip on unequal bytes, the condition read as numbers (R124, R126). -/
theorem skipIf_bne_pc_toNat (a b : Byte) (s : State) :
    (skipIf (a != b) s).pc.toNat = (s.pc.toNat + (if a.toNat = b.toNat then 0 else 2)) % 65536 := by
  simp [skipIf_pc_toNat, BitVec.toNat_inj]

/-- Settles O32: the handler is one write of `PC`. -/
theorem jumpSetsPc : Obligations.JumpSetsPc := fun nnn s =>
  ⟨decodeWord_jp nnn, _, rfl, addr16_toNat nnn, setPc_unchangedBut_pc s _⟩

/-- Settles O34: each handler is a `skipIf` on one comparison of two bytes. -/
theorem skipsPassOneInstruction : Obligations.SkipsPassOneInstruction := by
  intro x y kk s
  refine ⟨decodeWord_seByte x kk, decodeWord_sneByte x kk, decodeWord_op5 x y 0x0#4, decodeWord_op9 x y 0x0#4,
    fun f hf => ⟨(decodeWord_op5 x y f).trans (if_neg hf), (decodeWord_op9 x y f).trans (if_neg hf)⟩,
    ?seByte, ?sneByte, ?seReg, ?sneReg⟩
  case seByte => exact ⟨_, rfl, skipIf_unchangedBut_pc _ s, skipIf_beq_pc_toNat _ _ s⟩
  case sneByte => exact ⟨_, rfl, skipIf_unchangedBut_pc _ s, skipIf_bne_pc_toNat _ _ s⟩
  case seReg => exact ⟨_, rfl, skipIf_unchangedBut_pc _ s, skipIf_beq_pc_toNat _ _ s⟩
  case sneReg => exact ⟨_, rfl, skipIf_unchangedBut_pc _ s, skipIf_bne_pc_toNat _ _ s⟩

end Sys2Proof.Machine

/-! ### Loads, byte addition and bitwise logic (42_alu.md R142 to R147, 45_timers_keypad.md R212) -/

namespace Sys2Proof

/-- Primary nibble 6 selects the byte load (R81, R82 row 8). -/
theorem decodeWord_ldByte (x : RegIdx) (kk : Byte) : decodeWord (0x6#4 ++ x ++ kk) = .ldByte x kk := by
  obtain ⟨hop, hx, hkk⟩ := formatXK_fields 0x6#4 x kk
  simp [decodeWord, hop, hx, hkk]

/-- Primary nibble 7 selects the byte addition (R81, R82 row 9). -/
theorem decodeWord_addByte (x : RegIdx) (kk : Byte) : decodeWord (0x7#4 ++ x ++ kk) = .addByte x kk := by
  obtain ⟨hop, hx, hkk⟩ := formatXK_fields 0x7#4 x kk
  simp [decodeWord, hop, hx, hkk]

/-- Under primary nibble 8 the low nibble selects the handler (R75, R81). -/
theorem decodeWord_op8 (x y : RegIdx) (f : Nibble) :
    decodeWord (0x8#4 ++ x ++ y ++ f) = decode8 (0x8#4 ++ x ++ y ++ f) := by
  obtain ⟨hop, -⟩ := formatXY_fields 0x8#4 x y f
  simp [decodeWord, hop]

/-- Under primary nibble 8 the low nibbles 0 to 3 select copy, OR, AND and XOR, on the registers the word names
(R75, R82 rows 10 to 13). -/
theorem decodeWord_ldReg_orReg_andReg_xorReg (x y : RegIdx) :
    decodeWord (0x8#4 ++ x ++ y ++ 0x0#4) = .ldReg x y ∧ decodeWord (0x8#4 ++ x ++ y ++ 0x1#4) = .orReg x y ∧
    decodeWord (0x8#4 ++ x ++ y ++ 0x2#4) = .andReg x y ∧ decodeWord (0x8#4 ++ x ++ y ++ 0x3#4) = .xorReg x y := by
  refine ⟨?_, ?_, ?_, ?_⟩ <;> simp only [decodeWord_op8, decode8, formatXY_fields] <;> rfl

/-- Under primary nibble F the low byte selects the handler (R75, R81). -/
theorem decodeWord_opF (x : RegIdx) (f : Byte) : decodeWord (0xF#4 ++ x ++ f) = decodeF (0xF#4 ++ x ++ f) := by
  obtain ⟨hop, -⟩ := formatXK_fields 0xF#4 x f
  simp [decodeWord, hop]

/-- Under primary nibble F the low byte 07 selects the read of `DT` (R75, R82 row 26). -/
theorem decodeWord_ldVxDT (x : RegIdx) : decodeWord (0xF#4 ++ x ++ 0x07#8) = .ldVxDT x := by
  obtain ⟨-, hx, hkk⟩ := formatXK_fields 0xF#4 x 0x07#8
  simp [decodeWord_opF, decodeF, hx, hkk]

end Sys2Proof

namespace Sys2Proof.Machine

open Sys2Proof.Safety

/-- A write of `V[x]` is seen in `V[x]` alone. -/
theorem setV_unchangedBut_v (s : State) (x : RegIdx) (b : Byte) :
    UnchangedBut (fun e => e = .v x) s (s.setV x b) := by
  intro e he
  cases e with
  | v y => exact State.getV_setV_ne s x b fun h => he (congrArg Element.v h)
  | _ => rfl

/-- An answer that is one write of `V[x]`: the value written and the frame. -/
theorem next_setV_spec (s : State) (x : RegIdx) (b : Byte) : ∃ t, (.next (s.setV x b) : Result) = .next t ∧
    t.getV x = b ∧ UnchangedBut (fun e => e = .v x) s t :=
  ⟨_, rfl, State.getV_setV_self s x b, setV_unchangedBut_v s x b⟩

/-- Settles O24: each handler is one write of `V[x]`. -/
theorem loadsSetTheRegister : Obligations.LoadsSetTheRegister := by
  intro x y kk s
  obtain ⟨hcopy, -⟩ := decodeWord_ldReg_orReg_andReg_xorReg x y
  exact ⟨decodeWord_ldByte x kk, hcopy, decodeWord_ldVxDT x,
    next_setV_spec s x kk, next_setV_spec s x (s.getV y), next_setV_spec s x s.dt⟩

/-- Settles O25: the handler is one write of `V[x]`, and a byte sum is the sum modulo 256. -/
theorem addByteWrapsWithoutFlag : Obligations.AddByteWrapsWithoutFlag := by
  intro x kk s
  refine ⟨decodeWord_addByte x kk, _, rfl, ?sum, setV_unchangedBut_v s x _⟩
  case sum => rw [State.getV_setV_self, BitVec.toNat_add]

/-- Settles O26: each handler is one write of `V[x]`, and `|||`, `&&&` and `^^^` act on each bit by itself. -/
theorem logicIsBitwiseAndLeavesTheFlag : Obligations.LogicIsBitwiseAndLeavesTheFlag := by
  intro x y s
  obtain ⟨-, hor, hand, hxor⟩ := decodeWord_ldReg_orReg_andReg_xorReg x y
  refine ⟨hor, hand, hxor, ⟨_, rfl, setV_unchangedBut_v s x _, fun k _ => ?or⟩,
    ⟨_, rfl, setV_unchangedBut_v s x _, fun k _ => ?and⟩, ⟨_, rfl, setV_unchangedBut_v s x _, fun k _ => ?xor⟩⟩
  case or => rw [State.getV_setV_self, BitVec.getLsbD_or]
  case and => rw [State.getV_setV_self, BitVec.getLsbD_and]
  case xor => rw [State.getV_setV_self, BitVec.getLsbD_xor]

end Sys2Proof.Machine

/-! ### The index load (43_index_memory.md R170) -/

namespace Sys2Proof

/-- Primary nibble A selects the index load (R81, R82 row 20). -/
theorem decodeWord_ldI (nnn : Addr) : decodeWord (0xA#4 ++ nnn) = .ldI nnn := by
  obtain ⟨hop, hnnn⟩ := formatA_fields 0xA#4 nnn
  simp [decodeWord, hop, hnnn]

end Sys2Proof

namespace Sys2Proof.Machine

open Sys2Proof.Safety

/-- A write of `I` is seen in `I` alone. -/
theorem setI_unchangedBut_i (s : State) (w : Word) : UnchangedBut (fun e => e = .i) s (s.setI w) := by
  intro e he
  cases e with
  | i => exact absurd rfl he
  | _ => rfl

/-- Settles O38: the handler is one write of `I`, and `I` is wide enough for the whole address. -/
theorem loadIndexSetsI : Obligations.LoadIndexSetsI := fun nnn s =>
  ⟨decodeWord_ldI nnn, _, rfl, addr16_toNat nnn, setI_unchangedBut_i s _⟩

end Sys2Proof.Machine

/-! ### Clear the display (44_graphics.md R190) -/

namespace Sys2Proof

theorem decode8_ne_cls (w : Word) : decode8 w ≠ .cls := by
  unfold decode8; split <;> exact Instr.noConfusion

theorem decodeE_ne_cls (w : Word) : decodeE w ≠ .cls := by
  unfold decodeE; split <;> exact Instr.noConfusion

theorem decodeF_ne_cls (w : Word) : decodeF w ≠ .cls := by
  unfold decodeF; split <;> exact Instr.noConfusion

/-- In branch 0x0 one whole word selects the clear (R77, R78). -/
theorem eq_of_decode0_eq_cls {w : Word} (h : decode0 w = .cls) : w = 0x00E0#16 := by
  unfold decode0 at h
  split at h
  · assumption
  · split at h <;> exact Instr.noConfusion h

/-- Only branch 0x0 of the dispatch tree reaches the clear, and there only at its own word (R81, R82 row 1). -/
theorem decodeWord_eq_cls_iff (w : Word) : decodeWord w = .cls ↔ w = 0x00E0#16 := by
  refine ⟨fun h => ?_, fun h => h ▸ rfl⟩
  unfold decodeWord at h
  split at h -- case `h_k` is the branch of primary nibble k - 1
  case h_1 => exact eq_of_decode0_eq_cls h
  case h_9 => exact absurd h (decode8_ne_cls w)
  case h_15 => exact absurd h (decodeE_ne_cls w)
  case h_16 => exact absurd h (decodeF_ne_cls w)
  case h_6 | h_10 => split at h <;> exact Instr.noConfusion h
  all_goals exact Instr.noConfusion h

end Sys2Proof

namespace Sys2Proof.Machine

open Sys2Proof.Safety

/-- There is no lit cell outside the 32 rows and 64 columns (R37). -/
theorem pixel_eq_false_of_outside (s : State) {r c : Nat} (h : ¬ (r < 32 ∧ c < 64)) : s.pixel r c = false := by
  unfold State.pixel
  split
  · exact BitVec.getLsbD_of_ge _ _ (by omega)
  · rfl

/-- A write of the display is seen in the cells of the frame alone. -/
theorem setPix_unchangedBut_pixel (s : State) (d : Display) :
    UnchangedBut (fun e => ∃ r c, r < 32 ∧ c < 64 ∧ e = .pixel r c) s (s.setPix d) := by
  intro e he
  cases e with
  | pixel r c =>
    have outside : ¬ (r < 32 ∧ c < 64) := fun ⟨hr, hc⟩ => he ⟨r, c, hr, hc, rfl⟩
    exact (pixel_eq_false_of_outside _ outside).trans (pixel_eq_false_of_outside s outside).symm
  | _ => rfl

/-- A display of 32 zero rows has every cell off. -/
theorem pixel_setPix_zero (s : State) (r c : Nat) : (s.setPix (Vector.replicate 32 0#64)).pixel r c = false := by
  simp [State.pixel_setPix]

/-- Settles O45: the handler is one write of the display, to the one with every cell off. -/
theorem clsClearsEveryCell : Obligations.ClsClearsEveryCell :=
  ⟨decodeWord_eq_cls_iff, fun s =>
    ⟨_, rfl, fun r c _ _ => pixel_setPix_zero s r c, setPix_unchangedBut_pixel s _⟩⟩

end Sys2Proof.Machine

/-! ### The timer setters (45_timers_keypad.md R214, R215) -/

namespace Sys2Proof

/-- Under primary nibble F the low byte 15 selects the write of `DT` (R75, R82 row 28). -/
theorem decodeWord_ldDTVx (x : RegIdx) : decodeWord (0xF#4 ++ x ++ 0x15#8) = .ldDTVx x := by
  obtain ⟨-, hx, hkk⟩ := formatXK_fields 0xF#4 x 0x15#8
  simp [decodeWord_opF, decodeF, hx, hkk]

/-- Under primary nibble F the low byte 18 selects the write of `ST` (R75, R82 row 29). -/
theorem decodeWord_ldSTVx (x : RegIdx) : decodeWord (0xF#4 ++ x ++ 0x18#8) = .ldSTVx x := by
  obtain ⟨-, hx, hkk⟩ := formatXK_fields 0xF#4 x 0x18#8
  simp [decodeWord_opF, decodeF, hx, hkk]

end Sys2Proof

namespace Sys2Proof.Machine

open Sys2Proof.Safety

/-- A write of `DT` is seen in `DT` alone. -/
theorem setDt_unchangedBut_dt (s : State) (b : Byte) : UnchangedBut (fun e => e = .dt) s (s.setDt b) := by
  intro e he
  cases e with
  | dt => exact absurd rfl he
  | _ => rfl

/-- A write of `ST` is seen in `ST` alone. -/
theorem setSt_unchangedBut_st (s : State) (b : Byte) : UnchangedBut (fun e => e = .st) s (s.setSt b) := by
  intro e he
  cases e with
  | st => exact absurd rfl he
  | _ => rfl

/-- Settles O48: each handler is one write of its timer. -/
theorem timerSettersCopyTheRegister : Obligations.TimerSettersCopyTheRegister := fun x s =>
  ⟨decodeWord_ldDTVx x, decodeWord_ldSTVx x,
    ⟨_, rfl, State.setDt_dt s (s.getV x), setDt_unchangedBut_dt s _⟩,
    ⟨_, rfl, State.setSt_st s (s.getV x), setSt_unchangedBut_st s _⟩⟩

end Sys2Proof.Machine

/-! ### Undecoded words (46_undecoded.md R230) -/

namespace Sys2Proof

/-- The list of R79, branch by branch of the dispatch tree and in the decoder's own fields. -/
theorem undecoded_iff (w : Word) : undecoded w = true ↔
    (fieldOp w).toNat = 0x0 ∧ w ≠ 0x00E0#16 ∧ w ≠ 0x00EE#16 ∨
    (fieldOp w).toNat = 0x5 ∧ fieldN w ≠ 0#4 ∨
    (fieldOp w).toNat = 0x8 ∧ (fieldN w).toNat ∈ [0x8, 0x9, 0xA, 0xB, 0xC, 0xD, 0xF] ∨
    (fieldOp w).toNat = 0x9 ∧ fieldN w ≠ 0#4 ∨
    (fieldOp w).toNat = 0xE ∧ (fieldKK w).toNat ∉ [0x9E, 0xA1] ∨
    (fieldOp w).toNat = 0xF ∧ (fieldKK w).toNat ∉ [0x07, 0x0A, 0x15, 0x18, 0x1E, 0x29, 0x33, 0x55, 0x65] := by
  have hop : w.toNat / 4096 % 16 = w.toNat / 4096 := Nat.mod_eq_of_lt (by omega)
  simp [undecoded, fieldOp_toNat, fieldN_toNat, fieldKK_toNat, hop, ← BitVec.toNat_inj, and_assoc, or_assoc]

/-- Branch 0x8 has no handler for the other low nibbles (R75, R79). -/
theorem decode8_eq_nop {w : Word} (h : (fieldN w).toNat ∈ [0x8, 0x9, 0xA, 0xB, 0xC, 0xD, 0xF]) :
    decode8 w = .nop w := by
  unfold decode8
  split
  case h_10 => rfl
  all_goals simp [*] at h -- a handler's own selector is not one of the undecoded ones

/-- Branch 0xE has no handler for the other low bytes (R77, R79). -/
theorem decodeE_eq_nop {w : Word} (h : (fieldKK w).toNat ∉ [0x9E, 0xA1]) : decodeE w = .nop w := by
  unfold decodeE
  split
  case h_3 => rfl
  all_goals simp [*] at h -- a handler's own selector is not one of the undecoded ones

/-- Branch 0xF has no handler for the other low bytes (R75, R79). -/
theorem decodeF_eq_nop {w : Word}
    (h : (fieldKK w).toNat ∉ [0x07, 0x0A, 0x15, 0x18, 0x1E, 0x29, 0x33, 0x55, 0x65]) : decodeF w = .nop w := by
  unfold decodeF
  split
  case h_10 => rfl
  all_goals simp [*] at h -- a handler's own selector is not one of the undecoded ones

/-- Every listed undecoded word selects the no-op, which carries the word (R79, R82 row 35). -/
theorem decodeWord_of_undecoded {w : Word} (h : undecoded w = true) : decodeWord w = .nop w := by
  obtain ⟨hop, hCls, hRet⟩ | ⟨hop, hn⟩ | ⟨hop, hn⟩ | ⟨hop, hn⟩ | ⟨hop, hkk⟩ | ⟨hop, hkk⟩ := (undecoded_iff w).mp h <;>
    simp only [decodeWord, hop]
  · simp [decode0, hCls, hRet]
  · exact if_neg hn
  · exact decode8_eq_nop hn
  · exact if_neg hn
  · exact decodeE_eq_nop hkk
  · exact decodeF_eq_nop hkk

end Sys2Proof

namespace Sys2Proof.Machine

open Sys2Proof.Safety

/-- R230: the no-op writes nothing. -/
@[simp] theorem exec_nop (w : Word) (s : State) : exec (.nop w) s = .next s := rfl

/-- The count down of R106, its test read as a test for 0. -/
theorem countDown_eq (t : Byte) : countDown t = if t = 0#8 then 0#8 else t - 1#8 := by
  by_cases h : t = 0#8
  · simp [countDown, h]
  · have pos : 0 < t.toNat := Nat.pos_of_ne_zero fun h0 => h (BitVec.eq_of_toNat_eq h0)
    simp [countDown, h, pos]

/-- After a handler that did not fault, the end of the cycle is R106's count down and `PHASE` Idle (R102). -/
theorem endCycle_eq_completedCycle {s : State} (h : s.phase ≠ .halted) : endCycle s = CompletedCycle s := by
  simp [endCycle_eq, h, CompletedCycle, countDown_eq]

/-- Settles O52: the listed words select the no-op, which hands the latched state on to the end of the cycle. -/
theorem nopOnlyAdvancesTheCycle : Obligations.NopOnlyAdvancesTheCycle := by
  refine ⟨fun _ => decodeWord_of_undecoded, exec_nop, fun s running inBounds hw => ?_⟩
  have ran : exec (decodeWord (fetchedWord s)) (latch (fetchedWord s) s) = .next (latch (fetchedWord s) s) := by
    rw [decodeWord_of_undecoded hw, exec_nop]
  have latched : (latch (fetchedWord s) s).phase ≠ .halted := by simp [latch_eq]
  rw [step_of_exec running inBounds ran, endCycle_eq_completedCycle latched]
  rfl

end Sys2Proof.Machine

/-! ### The keypad transaction (60_exceptions.md R257) -/

namespace Sys2Proof.Machine

open Sys2Proof.Safety

/-- There is no pressed key beyond the 16 of the keypad (R38). -/
theorem keyDown_eq_false_of_ge (s : State) {k : Nat} (h : 16 ≤ k) : s.keyDown k = false :=
  BitVec.getLsbD_of_ge s.key k h

/-- A write of the keypad is seen in its 16 keys alone. -/
theorem setKey_unchangedBut_key (s : State) (keys : Keypad) :
    UnchangedBut (fun e => ∃ k, k < 16 ∧ e = .key k) s (s.setKey keys) := by
  intro e he
  cases e with
  | key k =>
    have beyond : 16 ≤ k := Nat.le_of_not_lt fun hk => he ⟨k, hk, rfl⟩
    exact (keyDown_eq_false_of_ge _ beyond).trans (keyDown_eq_false_of_ge s beyond).symm
  | _ => rfl

/-- The keypad transaction is one write of the keypad (R257). -/
theorem serve_keypad (keys : Keypad) (s : State) : serve (.keypad keys) s = .next (s.setKey keys) := rfl

/-- Settles O21: the transaction is one write of the keypad, and key `k` reads bit `k` of what was written. -/
theorem keypadIsReplacedWholesale : Obligations.KeypadIsReplacedWholesale := fun keys s =>
  ⟨s.setKey keys, serve_keypad keys s, fun k _ => State.keyDown_setKey s keys k, setKey_unchangedBut_key s keys⟩

end Sys2Proof.Machine

/-! ### Decoder and encoder are inverse (30_encoding.md R71 to R83) -/

namespace Sys2Proof

/-- Primary nibble 2 selects the call (R81, R82 row 4). -/
theorem decodeWord_call (nnn : Addr) : decodeWord (0x2#4 ++ nnn) = .call nnn := by
  obtain ⟨hop, hnnn⟩ := formatA_fields 0x2#4 nnn
  simp [decodeWord, hop, hnnn]

/-- Primary nibble B selects the indexed jump (R81, R82 row 21). -/
theorem decodeWord_jpV0 (nnn : Addr) : decodeWord (0xB#4 ++ nnn) = .jpV0 nnn := by
  obtain ⟨hop, hnnn⟩ := formatA_fields 0xB#4 nnn
  simp [decodeWord, hop, hnnn]

/-- Primary nibble C selects the random byte (R81, R82 row 22). -/
theorem decodeWord_rnd (x : RegIdx) (kk : Byte) : decodeWord (0xC#4 ++ x ++ kk) = .rnd x kk := by
  obtain ⟨hop, hx, hkk⟩ := formatXK_fields 0xC#4 x kk
  simp [decodeWord, hop, hx, hkk]

/-- Primary nibble D selects the sprite draw (R81, R82 row 23). -/
theorem decodeWord_drw (x y : RegIdx) (n : Nibble) : decodeWord (0xD#4 ++ x ++ y ++ n) = .drw x y n := by
  obtain ⟨hop, hx, hy, hn⟩ := formatXY_fields 0xD#4 x y n
  simp [decodeWord, hop, hx, hy, hn]

/-- Under primary nibble 8 the low nibbles 4 to 7 and E select the flag-writing handlers (R75, R82 rows 14 to 18). -/
theorem decodeWord_addReg_subReg_shr_subnReg_shl (x y : RegIdx) :
    decodeWord (0x8#4 ++ x ++ y ++ 0x4#4) = .addReg x y ∧ decodeWord (0x8#4 ++ x ++ y ++ 0x5#4) = .subReg x y ∧
    decodeWord (0x8#4 ++ x ++ y ++ 0x6#4) = .shr x y ∧ decodeWord (0x8#4 ++ x ++ y ++ 0x7#4) = .subnReg x y ∧
    decodeWord (0x8#4 ++ x ++ y ++ 0xE#4) = .shl x y := by
  refine ⟨?_, ?_, ?_, ?_, ?_⟩ <;> simp only [decodeWord_op8, decode8, formatXY_fields] <;> rfl

/-- Under primary nibble E the low byte selects the handler (R77, R81). -/
theorem decodeWord_opE (x : RegIdx) (f : Byte) : decodeWord (0xE#4 ++ x ++ f) = decodeE (0xE#4 ++ x ++ f) := by
  obtain ⟨hop, -⟩ := formatXK_fields 0xE#4 x f
  simp [decodeWord, hop]

/-- Under primary nibble E the low bytes 9E and A1 select the key skips (R77, R82 rows 24 and 25). -/
theorem decodeWord_skp_sknp (x : RegIdx) :
    decodeWord (0xE#4 ++ x ++ 0x9E#8) = .skp x ∧ decodeWord (0xE#4 ++ x ++ 0xA1#8) = .sknp x := by
  refine ⟨?_, ?_⟩ <;> simp only [decodeWord_opE, decodeE, formatXK_fields] <;> rfl

/-- Under primary nibble F the low byte 0A selects the wait for a key, and 1E, 29, 33, 55 and 65 the index and memory
handlers (R75, R82 rows 27 and 30 to 34). -/
theorem decodeWord_ldVxK_addI_ldF_ldB_storeRegs_loadRegs (x : RegIdx) :
    decodeWord (0xF#4 ++ x ++ 0x0A#8) = .ldVxK x ∧ decodeWord (0xF#4 ++ x ++ 0x1E#8) = .addI x ∧
    decodeWord (0xF#4 ++ x ++ 0x29#8) = .ldF x ∧ decodeWord (0xF#4 ++ x ++ 0x33#8) = .ldB x ∧
    decodeWord (0xF#4 ++ x ++ 0x55#8) = .storeRegs x ∧ decodeWord (0xF#4 ++ x ++ 0x65#8) = .loadRegs x := by
  refine ⟨?_, ?_, ?_, ?_, ?_, ?_⟩ <;> simp only [decodeWord_opF, decodeF, formatXK_fields] <;> rfl

/-- The decoder gives back every well-formed instruction from its word, constructor by constructor (R82). -/
theorem decodeWord_encode (i : Instr) (wellFormed : i.wf = true) : decodeWord (encode i) = i := by
  cases i with
  | cls => rfl
  | ret => rfl
  | jp nnn => exact decodeWord_jp nnn
  | call nnn => exact decodeWord_call nnn
  | seByte x kk => exact decodeWord_seByte x kk
  | sneByte x kk => exact decodeWord_sneByte x kk
  | seReg x y => exact decodeWord_op5 x y 0x0#4
  | ldByte x kk => exact decodeWord_ldByte x kk
  | addByte x kk => exact decodeWord_addByte x kk
  | ldReg x y | orReg x y | andReg x y | xorReg x y =>
    obtain ⟨hld, hor, hand, hxor⟩ := decodeWord_ldReg_orReg_andReg_xorReg x y
    assumption
  | addReg x y | subReg x y | shr x y | subnReg x y | shl x y =>
    obtain ⟨hadd, hsub, hshr, hsubn, hshl⟩ := decodeWord_addReg_subReg_shr_subnReg_shl x y
    assumption
  | sneReg x y => exact decodeWord_op9 x y 0x0#4
  | ldI nnn => exact decodeWord_ldI nnn
  | jpV0 nnn => exact decodeWord_jpV0 nnn
  | rnd x kk => exact decodeWord_rnd x kk
  | drw x y n => exact decodeWord_drw x y n
  | skp x | sknp x =>
    obtain ⟨hskp, hsknp⟩ := decodeWord_skp_sknp x
    assumption
  | ldVxDT x => exact decodeWord_ldVxDT x
  | ldDTVx x => exact decodeWord_ldDTVx x
  | ldSTVx x => exact decodeWord_ldSTVx x
  | ldVxK x | addI x | ldF x | ldB x | storeRegs x | loadRegs x =>
    obtain ⟨hkey, hadd, hfont, hbcd, hstore, hload⟩ := decodeWord_ldVxK_addI_ldF_ldB_storeRegs_loadRegs x
    assumption
  | nop w => exact decodeWord_of_undecoded wellFormed

/-- Settles O1: the two bytes make up the word again, and the decoder gives the instruction back from its word. -/
theorem decodeInvertsEncode : Obligations.DecodeInvertsEncode := by
  intro i rest wellFormed
  rw [encodeBytes, bytesOfWord, List.cons_append, List.cons_append, List.nil_append, decode_pair,
    wordOfBytes_high_low, decodeWord_encode i wellFormed]

/-- The instruction is well formed and `w` is its word. -/
def StandsFor (i : Instr) (w : Word) : Prop := i.wf = true ∧ encode i = w

/-- A word with primary nibble `op` is that nibble and its address field (format A, R71). -/
theorem formatA_eq {w : Word} {op : BitVec 4} (hop : fieldOp w = op) : op ++ fieldNNN w = w :=
  hop ▸ formatA_of_fields w

/-- A word is its primary nibble, `x` and its low byte (formats XK and XF, R71). -/
theorem formatXK_eq {w : Word} {op : BitVec 4} {kk : Byte} (hop : fieldOp w = op) (hkk : fieldKK w = kk) :
    op ++ fieldX w ++ kk = w :=
  hop ▸ hkk ▸ formatXK_of_fields w

/-- A word is its primary nibble, `x`, `y` and its low nibble (formats XYF and XYN, R71). -/
theorem formatXY_eq {w : Word} {op : BitVec 4} {f : Nibble} (hop : fieldOp w = op) (hf : fieldN w = f) :
    op ++ fieldX w ++ fieldY w ++ f = w :=
  hop ▸ hf ▸ formatXY_of_fields w

theorem decode0_standsFor {w : Word} (hop : fieldOp w = 0x0#4) : StandsFor (decode0 w) w := by
  unfold decode0
  split
  · exact ⟨rfl, Eq.symm ‹_›⟩
  · split
    · exact ⟨rfl, Eq.symm ‹_›⟩
    · exact ⟨(undecoded_iff w).mpr (.inl ⟨congrArg BitVec.toNat hop, ‹_›, ‹_›⟩), rfl⟩

theorem decode8_standsFor {w : Word} (hop : fieldOp w = 0x8#4) : StandsFor (decode8 w) w := by
  unfold decode8
  split
  case h_10 =>
    have listed : (fieldN w).toNat ∈ [0x8, 0x9, 0xA, 0xB, 0xC, 0xD, 0xF] := by
      have := (fieldN w).isLt
      simp only [imp_false, List.mem_cons, List.not_mem_nil, or_false] at *
      omega
    exact ⟨(undecoded_iff w).mpr (.inr (.inr (.inl ⟨congrArg BitVec.toNat hop, listed⟩))), rfl⟩
  all_goals exact ⟨rfl, formatXY_eq hop (BitVec.eq_of_toNat_eq ‹_›)⟩

theorem decodeE_standsFor {w : Word} (hop : fieldOp w = 0xE#4) : StandsFor (decodeE w) w := by
  unfold decodeE
  split
  case h_3 =>
    have unlisted : (fieldKK w).toNat ∉ [0x9E, 0xA1] := by simp_all
    exact ⟨(undecoded_iff w).mpr (.inr (.inr (.inr (.inr (.inl ⟨congrArg BitVec.toNat hop, unlisted⟩))))), rfl⟩
  all_goals exact ⟨rfl, formatXK_eq hop (BitVec.eq_of_toNat_eq ‹_›)⟩

theorem decodeF_standsFor {w : Word} (hop : fieldOp w = 0xF#4) : StandsFor (decodeF w) w := by
  unfold decodeF
  split
  case h_10 =>
    have unlisted : (fieldKK w).toNat ∉ [0x07, 0x0A, 0x15, 0x18, 0x1E, 0x29, 0x33, 0x55, 0x65] := by simp_all
    exact ⟨(undecoded_iff w).mpr (.inr (.inr (.inr (.inr (.inr ⟨congrArg BitVec.toNat hop, unlisted⟩))))), rfl⟩
  all_goals exact ⟨rfl, formatXK_eq hop (BitVec.eq_of_toNat_eq ‹_›)⟩

/-- Every branch of the dispatch tree answers an instruction that stands for the word (R81, R83). -/
theorem decodeWord_standsFor (w : Word) : StandsFor (decodeWord w) w := by
  have opcode {k : Nat} (h : (fieldOp w).toNat = k) : fieldOp w = BitVec.ofNat 4 k := by simp [← h]
  unfold decodeWord
  split -- case `h_k` is the branch of primary nibble k - 1
  case h_1 h => exact decode0_standsFor (opcode h)
  case h_2 h | h_3 h | h_11 h | h_12 h => exact ⟨rfl, formatA_eq (opcode h)⟩
  case h_4 h | h_5 h | h_7 h | h_8 h | h_13 h => exact ⟨rfl, formatXK_eq (opcode h) rfl⟩
  case h_6 h =>
    split
    · exact ⟨rfl, formatXY_eq (opcode h) ‹_›⟩
    · exact ⟨(undecoded_iff w).mpr (.inr (.inl ⟨h, ‹_›⟩)), rfl⟩
  case h_9 h => exact decode8_standsFor (opcode h)
  case h_10 h =>
    split
    · exact ⟨rfl, formatXY_eq (opcode h) ‹_›⟩
    · exact ⟨(undecoded_iff w).mpr (.inr (.inr (.inr (.inl ⟨h, ‹_›⟩)))), rfl⟩
  case h_14 h => exact ⟨rfl, formatXY_eq (opcode h) rfl⟩
  case h_15 h => exact decodeE_standsFor (opcode h)
  case h_16 =>
    have last : (fieldOp w).toNat = 0xF := by
      have := (fieldOp w).isLt
      simp only [imp_false] at *
      omega
    exact decodeF_standsFor (opcode last)

/-- Settles O2: every branch of the dispatch tree answers an instruction that stands for the word. -/
theorem encodeInvertsDecode : Obligations.EncodeInvertsDecode := decodeWord_standsFor

/-- A decoded no-op carries the word it was decoded from (R84). -/
theorem eq_of_decodeWord_eq_nop {w u : Word} (h : decodeWord w = .nop u) : u = w := by
  obtain ⟨-, back⟩ := decodeWord_standsFor w
  rw [h] at back
  exact back

/-- The no-op is decoded exactly for the undecoded words (R79). -/
theorem decodeWord_eq_nop_iff (w : Word) : decodeWord w = .nop w ↔ undecoded w = true := by
  refine ⟨fun h => ?_, decodeWord_of_undecoded⟩
  obtain ⟨wellFormed, -⟩ := decodeWord_standsFor w
  rw [h] at wellFormed
  exact wellFormed

/-- Settles O4: a decoded no-op is well formed, so its word is listed, and a listed word selects no handler. -/
theorem undecodedWordsAreTheListedOnes : Obligations.UndecodedWordsAreTheListedOnes := fun w =>
  ⟨decodeWord_eq_nop_iff w, fun _ => eq_of_decodeWord_eq_nop⟩

/-! #### The opcode map (R82) -/

/-- Two rows whose patterns agree on the bits both fix are the same row. -/
theorem opcodeRows_disjoint : ∀ r ∈ opcodeRows, ∀ q ∈ opcodeRows,
    r.pattern &&& q.mask = q.pattern &&& r.mask → r = q := by decide

/-- Two rows that select one word are the same row: their patterns are that word's bits. -/
theorem eq_of_both_select {w : Word} {r q : Row} (hr : r ∈ opcodeRows) (hq : q ∈ opcodeRows)
    (wr : w &&& r.mask = r.pattern) (wq : w &&& q.mask = q.pattern) : r = q := by
  refine opcodeRows_disjoint r hr q hq ?_
  rw [← wr, ← wq, BitVec.and_assoc, BitVec.and_assoc, BitVec.and_comm r.mask]

/-- Every instruction but the no-op has a row of R82. -/
theorem exists_row_of_rowNumber_ne (i : Instr) (h : i.rowNumber ≠ 35) : ∃ r ∈ opcodeRows, r.number = i.rowNumber := by
  have numbers : ∀ k, 1 ≤ k → k ≤ 34 → ∃ r ∈ opcodeRows, r.number = k := by decide
  have bounds : 1 ≤ i.rowNumber ∧ i.rowNumber ≤ 35 := by cases i <;> simp [Instr.rowNumber]
  exact numbers _ bounds.1 (by omega)

/-- What selecting a row says of the word's fields: where the row's mask fixes a field, the word holds the pattern's. -/
theorem fields_of_selected {w : Word} {r : Row} (wr : w &&& r.mask = r.pattern) :
    fieldOp w &&& fieldOp r.mask = fieldOp r.pattern ∧ fieldN w &&& fieldN r.mask = fieldN r.pattern ∧
      fieldKK w &&& fieldKK r.mask = fieldKK r.pattern := by
  simp only [← wr, fieldOp, fieldN, fieldKK, BitVec.extractLsb'_and, and_self]

/-- What each row fixes: the primary nibble, and under the nibbles of R79 the rest of the selector, at a value R79 does
not list. -/
theorem opcodeRows_fix_listed : ∀ r ∈ opcodeRows,
    fieldOp r.mask = 15#4 ∧
    ((fieldOp r.pattern).toNat = 0x0 → r.mask = 0xFFFF#16 ∧ (r.pattern = 0x00E0#16 ∨ r.pattern = 0x00EE#16)) ∧
    ((fieldOp r.pattern).toNat = 0x5 → fieldN r.mask = 15#4 ∧ fieldN r.pattern = 0#4) ∧
    ((fieldOp r.pattern).toNat = 0x8 →
      fieldN r.mask = 15#4 ∧ (fieldN r.pattern).toNat ∉ [0x8, 0x9, 0xA, 0xB, 0xC, 0xD, 0xF]) ∧
    ((fieldOp r.pattern).toNat = 0x9 → fieldN r.mask = 15#4 ∧ fieldN r.pattern = 0#4) ∧
    ((fieldOp r.pattern).toNat = 0xE → fieldKK r.mask = 255#8 ∧ (fieldKK r.pattern).toNat ∈ [0x9E, 0xA1]) ∧
    ((fieldOp r.pattern).toNat = 0xF → fieldKK r.mask = 255#8 ∧
      (fieldKK r.pattern).toNat ∈ [0x07, 0x0A, 0x15, 0x18, 0x1E, 0x29, 0x33, 0x55, 0x65]) := by decide

/-- No row selects an undecoded word (R79, R82 row 35). -/
theorem not_undecoded_of_selected {w : Word} {r : Row} (hr : r ∈ opcodeRows) (wr : w &&& r.mask = r.pattern) :
    ¬ undecoded w = true := by
  obtain ⟨hop, hn, hkk⟩ := fields_of_selected wr
  obtain ⟨fix, fix0, fix5, fix8, fix9, fixE, fixF⟩ := opcodeRows_fix_listed r hr
  rw [fix, Laws.EncodeSelectsRow.keep4] at hop
  rw [undecoded_iff, hop]
  rintro (⟨h, hCls, hRet⟩ | ⟨h, hbad⟩ | ⟨h, hbad⟩ | ⟨h, hbad⟩ | ⟨h, hbad⟩ | ⟨h, hbad⟩)
  · obtain ⟨full, rows⟩ := fix0 h
    rw [full, show w &&& 0xFFFF#16 = w from BitVec.and_allOnes] at wr
    exact rows.elim (fun h => hCls (wr.trans h)) (fun h => hRet (wr.trans h))
  · obtain ⟨full, row⟩ := fix5 h
    rw [full, Laws.EncodeSelectsRow.keep4] at hn
    exact hbad (hn.trans row)
  · obtain ⟨full, row⟩ := fix8 h
    rw [full, Laws.EncodeSelectsRow.keep4] at hn
    exact row (hn ▸ hbad)
  · obtain ⟨full, row⟩ := fix9 h
    rw [full, Laws.EncodeSelectsRow.keep4] at hn
    exact hbad (hn.trans row)
  · obtain ⟨full, row⟩ := fixE h
    rw [full, Laws.EncodeSelectsRow.keep8] at hkk
    exact hbad (hkk ▸ row)
  · obtain ⟨full, row⟩ := fixF h
    rw [full, Laws.EncodeSelectsRow.keep8] at hkk
    exact hbad (hkk ▸ row)

/-- The encoded word of every instruction is selected by its own row (R82). -/
theorem encodeSelectsRow (i : Instr) : Laws.EncodeSelectsRow.Statement i := by
  cases i with
  | cls => exact Laws.EncodeSelectsRow.cls
  | ret => exact Laws.EncodeSelectsRow.ret
  | jp nnn => exact Laws.EncodeSelectsRow.jp nnn
  | call nnn => exact Laws.EncodeSelectsRow.call nnn
  | seByte x kk => exact Laws.EncodeSelectsRow.seByte x kk
  | sneByte x kk => exact Laws.EncodeSelectsRow.sneByte x kk
  | seReg x y => exact Laws.EncodeSelectsRow.seReg x y
  | ldByte x kk => exact Laws.EncodeSelectsRow.ldByte x kk
  | addByte x kk => exact Laws.EncodeSelectsRow.addByte x kk
  | ldReg x y => exact Laws.EncodeSelectsRow.ldReg x y
  | orReg x y => exact Laws.EncodeSelectsRow.orReg x y
  | andReg x y => exact Laws.EncodeSelectsRow.andReg x y
  | xorReg x y => exact Laws.EncodeSelectsRow.xorReg x y
  | addReg x y => exact Laws.EncodeSelectsRow.addReg x y
  | subReg x y => exact Laws.EncodeSelectsRow.subReg x y
  | shr x y => exact Laws.EncodeSelectsRow.shr x y
  | subnReg x y => exact Laws.EncodeSelectsRow.subnReg x y
  | shl x y => exact Laws.EncodeSelectsRow.shl x y
  | sneReg x y => exact Laws.EncodeSelectsRow.sneReg x y
  | ldI nnn => exact Laws.EncodeSelectsRow.ldI nnn
  | jpV0 nnn => exact Laws.EncodeSelectsRow.jpV0 nnn
  | rnd x kk => exact Laws.EncodeSelectsRow.rnd x kk
  | drw x y n => exact Laws.EncodeSelectsRow.drw x y n
  | skp x => exact Laws.EncodeSelectsRow.skp x
  | sknp x => exact Laws.EncodeSelectsRow.sknp x
  | ldVxDT x => exact Laws.EncodeSelectsRow.ldVxDT x
  | ldVxK x => exact Laws.EncodeSelectsRow.ldVxK x
  | ldDTVx x => exact Laws.EncodeSelectsRow.ldDTVx x
  | ldSTVx x => exact Laws.EncodeSelectsRow.ldSTVx x
  | addI x => exact Laws.EncodeSelectsRow.addI x
  | ldF x => exact Laws.EncodeSelectsRow.ldF x
  | ldB x => exact Laws.EncodeSelectsRow.ldB x
  | storeRegs x => exact Laws.EncodeSelectsRow.storeRegs x
  | loadRegs x => exact Laws.EncodeSelectsRow.loadRegs x
  | nop w => exact Laws.EncodeSelectsRow.nop w

/-- The row of the decoded instruction selects the word (R82). -/
theorem selected_of_rowNumber_eq {w : Word} {r : Row} (hr : r ∈ opcodeRows)
    (h : (decodeWord w).rowNumber = r.number) : w &&& r.mask = r.pattern := by
  obtain ⟨selects, -⟩ := encodeSelectsRow (decodeWord w)
  obtain ⟨-, back⟩ := decodeWord_standsFor w
  rw [back] at selects
  exact selects r hr h.symm

/-- A word of row 35 decodes to the no-op that carries it. -/
theorem decodeWord_eq_nop_of_rowNumber {w : Word} (h : (decodeWord w).rowNumber = 35) : decodeWord w = .nop w := by
  obtain ⟨-, only⟩ := encodeSelectsRow (decodeWord w)
  obtain ⟨u, hu⟩ := only h
  exact hu.trans (congrArg Instr.nop (eq_of_decodeWord_eq_nop hu))

/-- A word a row selects decodes to that row's instruction: the no-op's words are selected by no row, and the row of any
other decoded instruction selects the word too (R82). -/
theorem rowNumber_eq_of_selected {w : Word} {r : Row} (hr : r ∈ opcodeRows) (wr : w &&& r.mask = r.pattern) :
    (decodeWord w).rowNumber = r.number := by
  have decoded : (decodeWord w).rowNumber ≠ 35 := fun h =>
    not_undecoded_of_selected hr wr ((decodeWord_eq_nop_iff w).mp (decodeWord_eq_nop_of_rowNumber h))
  obtain ⟨q, hq, number⟩ := exists_row_of_rowNumber_ne _ decoded
  rw [eq_of_both_select hr hq wr (selected_of_rowNumber_eq hq number.symm), number]

/-- Settles O3: a row selects exactly the words of its instruction, no two rows share a word, and the words of row 35
are those no row selects. -/
theorem opcodeMapSelectsTheHandler : Obligations.OpcodeMapSelectsTheHandler := by
  intro w
  refine ⟨fun r hr => ⟨rowNumber_eq_of_selected hr, selected_of_rowNumber_eq hr⟩,
    fun r hr q hq => eq_of_both_select hr hq, fun h r hr wr => ?_, fun h => ?_⟩
  · exact not_undecoded_of_selected hr wr ((decodeWord_eq_nop_iff w).mp h)
  · by_contra hne
    obtain ⟨r, hr, number⟩ := exists_row_of_rowNumber_ne _ (mt decodeWord_eq_nop_of_rowNumber hne)
    exact h r hr (selected_of_rowNumber_eq hr number.symm)

/-- Settles O5: the decoder evaluated at twelve words. -/
theorem decodesWordsOfEveryFamily : Obligations.DecodesWordsOfEveryFamily := by
  unfold Obligations.DecodesWordsOfEveryFamily
  decide

end Sys2Proof

/-! ### What a handler does to `PC`, `SP` and the stack, and the invariants (10_state.md R25, R28, R32, R33) -/

namespace Sys2Proof.Machine

open Sys2Proof.Safety

/-- What a handler can do to `PC`, `SP` and the stack (R104, R120 to R128, R213, R244): nothing to `SP` and the stack
while `PC` stays, skips, goes back by 2 or jumps to at most 0x10FE; or, a call alone, a push and a jump; or, a return
alone, a pop. -/
inductive ControlMove (i : Instr) (s t : State) : Prop where
  | straight (stack : t.stack = s.stack) (sp : t.sp = s.sp)
      (pc : t.pc = s.pc ∨ t.pc = s.pc + 2#16 ∨ t.pc = s.pc - 2#16 ∨ t.pc.toNat ≤ 0x10FE)
  | push (nnn : Addr) (call : i = .call nnn) (h : s.sp.toNat < 16) (eq : t = (pushPc s h).setPc (addr16 nnn))
  | pop (ret : i = .ret) (pos : s.sp.toNat ≠ 0) (h : s.sp.toNat - 1 < 16) (eq : t = popPc s h)

/-- A state with the same `PC`, `SP` and stack. -/
theorem ControlMove.of_eqs {i : Instr} {s t : State} (stack : t.stack = s.stack) (sp : t.sp = s.sp) (pc : t.pc = s.pc) :
    ControlMove i s t := .straight stack sp (.inl pc)

theorem ControlMove.setMem {i : Instr} (s : State) (m : Memory) : ControlMove i s (s.setMem m) := .of_eqs rfl rfl rfl

theorem ControlMove.jump {i : Instr} {s : State} {w : Word} (h : w.toNat ≤ 0x10FE) : ControlMove i s (s.setPc w) :=
  .straight rfl rfl (.inr (.inr (.inr h)))

theorem ControlMove.skipIf {i : Instr} (cond : Bool) (s : State) : ControlMove i s (skipIf cond s) := by
  cases cond
  · exact .of_eqs rfl rfl rfl
  · exact .straight rfl rfl (.inr (.inl rfl))

theorem ControlMove.takeFault {i : Instr} (c : FaultCause) (s : State) : ControlMove i s (takeFault c s) :=
  .straight rfl rfl (.inr (.inr (.inl rfl)))

theorem ControlMove.of_check {i : Instr} {s t u : State} {check : Option FaultCause}
    (h : unlessFault check s t = .next u) (own : ControlMove i s t) : ControlMove i s u := by
  obtain ⟨-, rfl⟩ | ⟨c, -, rfl⟩ := unlessFault_eq_next.mp h
  · exact own
  · exact .takeFault c s

theorem execRet_controlMove {s u : State} (h : execRet s = .next u) : ControlMove .ret s u := by
  unfold execRet at h
  split at h
  · cases h
    exact .takeFault _ s
  · split at h
    · rename_i nonempty _
      cases h
      exact .pop rfl (fun h0 => nonempty (BitVec.eq_of_toNat_eq h0)) _ rfl
    · cases h

theorem execCall_controlMove {nnn : Addr} {s u : State} (h : execCall nnn s = .next u) :
    ControlMove (.call nnn) s u := by
  unfold execCall at h
  split at h
  · cases h
    exact .takeFault _ s
  · split at h
    · cases h
      exact .push nnn rfl _ rfl
    · cases h

theorem execLdVxK_controlMove {x : RegIdx} {s u : State} (h : execLdVxK x s = .next u) :
    ControlMove (.ldVxK x) s u := by
  unfold execLdVxK at h
  split at h <;> cases h
  · exact .straight rfl rfl (.inr (.inr (.inl rfl)))
  · exact .of_eqs rfl rfl rfl

/-- What every instruction can do to `PC`, `SP` and the stack. -/
theorem exec_controlMove {i : Instr} {s u : State} (h : exec i s = .next u) : ControlMove i s u := by
  cases i with
  | ret => exact execRet_controlMove h
  | call nnn => exact execCall_controlMove h
  | ldVxK x => exact execLdVxK_controlMove h
  | jp nnn =>
    cases h
    exact .jump (by have := nnn.isLt; rw [addr16_toNat]; omega)
  | jpV0 nnn =>
    cases h
    exact .jump (by have := nnn.isLt; have := (s.getV 0#4).isLt; rw [indexedTarget_toNat]; omega)
  | seByte | sneByte | seReg | sneReg =>
    cases h
    exact .skipIf _ s
  | skp | sknp => exact .of_check h (.skipIf _ s)
  | ldB x => exact .of_check h (storeBcd_eq (s.getV x) s ▸ .setMem s _)
  | storeRegs x => exact .of_check h (storeBytes_eq _ s ▸ .setMem s _)
  | loadRegs x => exact .of_check h (loadBytes_eq _ s ▸ .of_eqs rfl rfl rfl)
  | drw x y n => exact .of_check h (.of_eqs rfl rfl rfl)
  | cls | ldByte | addByte | ldReg | orReg | andReg | xorReg | addReg | subReg | shr | subnReg | shl | ldI | rnd
  | ldVxDT | ldDTVx | ldSTVx | addI | ldF | nop =>
    cases h
    exact .of_eqs rfl rfl rfl

/-- The end of a cycle keeps `PC` (R102). -/
@[simp] theorem endCycle_pc (s : State) : (endCycle s).pc = s.pc := by rw [endCycle_eq]; split <;> rfl

/-- The end of a cycle keeps the stack (R102). -/
@[simp] theorem endCycle_stack (s : State) : (endCycle s).stack = s.stack := by rw [endCycle_eq]; split <;> rfl

/-- The bounds speak of `PC` and the stack only. -/
theorem pcBounded_of_eqs {s t : State} (h : PcBounded s) (pc : t.pc = s.pc) (stack : t.stack = s.stack) :
    PcBounded t :=
  ⟨pc ▸ h.pc, stack ▸ h.stack⟩

/-- A handler that runs on a latched state keeps the bounds: `PC` is then 2 to 0x1000, so a skip takes it to at most
0x1002 and a push stores at most 0x1000 (R25). -/
theorem pcBounded_of_controlMove {i : Instr} {s u : State}
    (bounded : ∀ (j : Nat) (h : j < 16), (s.stack[j]).toNat ≤ 0x1000)
    (low : 2 ≤ s.pc.toNat) (high : s.pc.toNat ≤ 0x1000) (move : ControlMove i s u) : PcBounded u := by
  cases move with
  | straight stack sp pc =>
    refine ⟨?_, stack ▸ bounded⟩
    obtain h | h | h | h := pc
    · rw [h]; omega
    · rw [h, BitVec.toNat_add]; simp; omega
    · rw [h, BitVec.toNat_sub]; simp; omega
    · exact h
  | push nnn _ h eq =>
    subst eq
    refine ⟨?_, fun j hj => ?_⟩
    · have := nnn.isLt
      rw [State.setPc_pc, addr16_toNat]; omega
    · have := bounded j hj
      simp only [pushPc_eq, State.setPc_stack, State.setSp_stack, State.setStack_stack, Vector.getElem_set]
      split <;> assumption
  | pop _ pos h eq =>
    subst eq
    exact ⟨Nat.le_trans (bounded _ h) (by omega), bounded⟩

/-- Settles O16: the fetch check leaves the handler a `PC` of at most 0x1000, and no handler goes further than 0x10FE
from there. -/
theorem stepKeepsPcBounded : Obligations.StepKeepsPcBounded := by
  intro s t bounded hst
  obtain ⟨-, rfl⟩ | ⟨-, -, rfl⟩ | ⟨-, fetchable, u, hu, rfl⟩ := step_eq_next.mp hst
  · exact bounded
  · exact pcBounded_of_eqs bounded rfl rfl
  · have advanced : (latch (fetchedWord s) s).pc.toNat = s.pc.toNat + 2 := by
      simp [latch_eq, BitVec.toNat_add]; omega
    have kept : PcBounded u :=
      pcBounded_of_controlMove (s := latch (fetchedWord s) s) bounded.stack (by omega) (by omega) (exec_controlMove hu)
    exact pcBounded_of_eqs kept (endCycle_pc u) (endCycle_stack u)

/-- A fault with a fault code, in a state with canonical memory and legal `SP`, meets the invariant (R244). -/
theorem inv_of_fault {s : State} (memory : s.mem.wf = true) (depth : s.sp.toNat ≤ 16) (c : FaultCause)
    (fault : s.fault = c.code) (phase : s.phase = .halted) : Inv s where
  memory := memory
  depth := depth
  code := fault ▸ c.code_range.2
  resting := .inr phase
  fatal := by simp [fault, phase, c.code_ne_zero]

/-- Settles O14: a handler keeps memory canonical and `SP` legal and then either ends the cycle Idle with `FAULT` as it
was, which is 0, or takes a fault. -/
theorem stepKeepsTheMachineInvariant : Obligations.StepKeepsTheMachineInvariant := by
  intro s t inv hst
  obtain ⟨-, rfl⟩ | ⟨-, -, rfl⟩ | ⟨running, -, u, hu, rfl⟩ := step_eq_next.mp hst
  · exact inv
  · exact inv_of_fault inv.memory inv.depth .fetchBounds rfl rfl
  · cases exec_answers (decodeWord (fetchedWord s)) (latch (fetchedWord s) s) with
    | own v h kept =>
      obtain rfl : v = u := by simpa [h] using hu
      have noFault : v.fault = 0#3 := kept.fault.trans (inv.fatal.mpr running)
      have runs : v.phase ≠ .halted := by rw [kept.phase]; exact Phase.noConfusion
      rw [endCycle_eq, if_neg runs]
      exact ⟨kept.memory inv.memory, kept.depth inv.depth, by simp [noFault], .inl rfl, by simp [noFault]⟩
    | fault c h =>
      obtain rfl : takeFault c (latch (fetchedWord s) s) = u := by simpa [h] using hu
      rw [endCycle_of_halted rfl]
      exact inv_of_fault inv.memory inv.depth c rfl rfl
    | refuses h => simp [h] at hu

/-- Settles O17: the only answer that is no next state is the refusal of an `SP` above 16, which the invariant shuts
out. -/
theorem everyCycleCompletes : Obligations.EveryCycleCompletes := by
  intro s inv
  by_cases halted : s.phase = .halted
  · exact ⟨_, step_eq_next.mpr (.inl ⟨halted, rfl⟩)⟩
  by_cases fetchable : s.pc.toNat ≤ 0xFFE
  · cases exec_answers (decodeWord (fetchedWord s)) (latch (fetchedWord s) s) with
    | own u h => exact ⟨_, step_of_exec halted fetchable h⟩
    | fault c h => exact ⟨_, step_of_exec halted fetchable h⟩
    | refuses h deep => exact absurd inv.depth (Nat.not_le_of_lt deep)
  · exact ⟨_, step_eq_next.mpr (.inr (.inl ⟨halted, Nat.lt_of_not_le fetchable, rfl⟩))⟩

/-- Settles O15: the reset values meet the bounds. -/
theorem resetMeetsTheInvariants : Obligations.ResetMeetsTheInvariants := by
  intro seed
  refine ⟨⟨State.reset_mem_wf, ?depth, ?code, .inl rfl, ?fatal⟩, ⟨?pc, fun j hj => ?stack⟩⟩
  case depth => exact Nat.zero_le 16
  case code => exact Nat.zero_le 5
  case fatal => exact iff_of_true rfl Phase.noConfusion
  case pc => show (0x200 : Nat) ≤ 0x10FE; omega
  case stack => simp [construct, State.reset]

/-- The invariant does not speak of the keypad. -/
theorem inv_setKey {s : State} (inv : Inv s) (keys : Keypad) : Inv (s.setKey keys) :=
  ⟨inv.memory, inv.depth, inv.code, inv.resting, inv.fatal⟩

/-- The invariant speaks of memory only as canonical. -/
theorem inv_setMem {s : State} (inv : Inv s) {m : Memory} (memory : m.wf = true) : Inv (s.setMem m) :=
  ⟨memory, inv.depth, inv.code, inv.resting, inv.fatal⟩

/-- An install changes memory only, and keeps it canonical (R256). -/
theorem install_eq_setMem (image : List Byte) (s : State) :
    ∃ m : Memory, (s.mem.wf = true → m.wf = true) ∧ (install image s).2 = s.setMem m := by
  unfold install
  split
  · exact ⟨s.mem, id, rfl⟩
  · exact ⟨_, installAt_wf image 0x200 s, installAt_eq image 0x200 s⟩

/-- Every transaction completes and keeps both invariants (R264). -/
theorem serve_keeps_invariants (q : HostRequest) {s : State} (inv : Inv s) (bounded : PcBounded s) :
    ∃ t, serve q s = .next t ∧ Inv t ∧ PcBounded t := by
  cases q with
  | construct seed => exact ⟨_, rfl, resetMeetsTheInvariants seed⟩
  | install image =>
    obtain ⟨m, memory, h⟩ := install_eq_setMem image s
    exact ⟨_, congrArg Host.Outcome.next h, inv_setMem inv (memory inv.memory), pcBounded_of_eqs bounded rfl rfl⟩
  | keypad keys => exact ⟨_, serve_keypad keys s, inv_setKey inv keys, pcBounded_of_eqs bounded rfl rfl⟩
  | cycle =>
    obtain ⟨t, hst⟩ := everyCycleCompletes s inv
    exact ⟨t, hst, stepKeepsTheMachineInvariant s t inv hst, stepKeepsPcBounded s t bounded hst⟩

theorem serveAll_cons {q : HostRequest} {s t : State} (qs : List HostRequest) (h : serve q s = .next t) :
    serveAll (q :: qs) s = serveAll qs t := by
  simp [serveAll, h]

/-- Settles O18: every transaction completes and keeps both invariants. -/
theorem sessionsKeepTheInvariants : Obligations.SessionsKeepTheInvariants := by
  intro qs
  induction qs with
  | nil => exact fun s inv bounded => ⟨s, rfl, inv, bounded⟩
  | cons q qs ih =>
    intro s inv bounded
    obtain ⟨t, ht, inv', bounded'⟩ := serve_keeps_invariants q inv bounded
    rw [serveAll_cons qs ht]
    exact ih t inv' bounded'

end Sys2Proof.Machine

/-! ### Faults (60_exceptions.md R240 to R246) -/

namespace Sys2Proof.Machine

open Sys2Proof.Safety

/-- A fault in the execute phase undoes the fetch's advance, so it is fault entry on the state at the start of the
cycle with `OPCODE` latched (R242, R244). -/
theorem takeFault_latch (c : FaultCause) (w : Word) (s : State) :
    takeFault c (latch w s) = enterFault c (s.setOpcode w) := by
  simp [takeFault_eq, latch_eq, enterFault_eq, State.setOpcode]

/-- The two ways a step of a running core can end halted (R102, R103): the fetch check, or a handler's fault. -/
theorem halting_step_eq_enterFault {s t : State} (running : s.phase ≠ .halted) (hst : step s = .next t)
    (halted : t.phase = .halted) :
    (s.pc.toNat > 0xFFE ∧ t = enterFault .fetchBounds s) ∨
      (s.pc.toNat ≤ 0xFFE ∧ ∃ c, c ≠ .fetchBounds ∧ t = enterFault c (s.setOpcode (fetchedWord s))) := by
  obtain ⟨h, -⟩ | ⟨-, unfetchable, rfl⟩ | ⟨-, fetchable, u, hu, rfl⟩ := step_eq_next.mp hst
  · exact absurd h running
  · exact .inl ⟨unfetchable, rfl⟩
  · cases exec_answers (decodeWord (fetchedWord s)) (latch (fetchedWord s) s) with
    | own v h kept =>
      obtain rfl : v = u := by simpa [h] using hu
      have runs : v.phase ≠ .halted := by rw [kept.phase]; exact Phase.noConfusion
      exact absurd (endCycle_phase_eq_halted.mp halted) runs
    | fault c h handlers =>
      obtain rfl : takeFault c (latch (fetchedWord s) s) = u := by simpa [h] using hu
      exact .inr ⟨fetchable, c, handlers, by rw [endCycle_of_halted rfl, takeFault_latch]⟩
    | refuses h => simp [h] at hu

/-- Settles O11: a step that halts is fault entry on the state it started from, with `OPCODE` latched where the fetch
succeeded. -/
theorem faultsArePrecise : Obligations.FaultsArePrecise := by
  intro s t running hst halted
  obtain ⟨unfetchable, rfl⟩ | ⟨fetchable, c, handlers, rfl⟩ := halting_step_eq_enterFault running hst halted
  · exact ⟨rfl, .inl ⟨unfetchable, rfl, rfl⟩⟩
  · refine ⟨rfl, .inr ⟨fetchable, ?_, rfl⟩⟩
    cases c with
    | fetchBounds => exact absurd rfl handlers
    | stackOverflow => exact .inl rfl
    | stackUnderflow => exact .inr (.inl rfl)
    | dataBounds => exact .inr (.inr (.inl rfl))
    | keyRange => exact .inr (.inr (.inr rfl))

/-! #### The fault table (R241) -/

/-- Fault entry in the execute phase leaves the state R242 and R244 describe. -/
theorem takeFault_eq_faultState (c : FaultCause) (s : State) : takeFault c s = FaultState c.code s := rfl

/-- The answer `r` is the fault state of the tabled code, or a next state that keeps `FAULT` and `PHASE`. -/
def FollowsTable (tabled : Option (BitVec 3)) (r : Result) (s : State) : Prop :=
  match tabled with
  | some code => r = .next (FaultState code s)
  | none => ∃ t, r = .next t ∧ t.fault = s.fault ∧ t.phase = s.phase

theorem followsTable_of_kept {s t : State} (kept : Kept s t) : FollowsTable none (.next t) s :=
  ⟨t, rfl, kept.fault, kept.phase⟩

/-- A handler that checks before it writes faults exactly where its check does (R245). -/
theorem followsTable_of_check {s t : State} {check : Option FaultCause} {tabled : Option (BitVec 3)}
    (same : check.map FaultCause.code = tabled) (kept : Kept s t) :
    FollowsTable tabled (unlessFault check s t) s := by
  subst same
  cases check with
  | none => exact followsTable_of_kept kept
  | some c => exact congrArg Host.Outcome.next (takeFault_eq_faultState c s)

/-- The code of the range check's fault (R56). -/
theorem map_code_checkRange (a n : Nat) :
    (checkRange a n).map FaultCause.code = if n > 0 ∧ a + n - 1 > 0xFFF then some 4#3 else none := by
  unfold checkRange; split <;> rfl

/-- The same for a block of `n + 1` bytes, which is never empty. -/
theorem map_code_checkRange_succ (a n : Nat) :
    (checkRange a (n + 1)).map FaultCause.code = if a + n > 0xFFF then some 4#3 else none :=
  (map_code_checkRange a (n + 1)).trans (if_congr (by omega) rfl rfl)

/-- The code of the key check's fault (R217). -/
theorem map_code_checkKey (s : State) (x : RegIdx) :
    (checkKey s x).map FaultCause.code = if (s.getV x).toNat > 0xF then some 5#3 else none := by
  unfold checkKey; split <;> rfl

/-- 2nnn with `SP` 16 (R122; decision D2). -/
theorem execCall_of_full (nnn : Addr) {s : State} (full : s.sp.toNat = 16) :
    execCall nnn s = .next (FaultState 1#3 s) :=
  if_pos (BitVec.eq_of_toNat_eq full)

/-- 2nnn with room on the stack (R122). -/
theorem execCall_of_lt (nnn : Addr) {s : State} (room : s.sp.toNat < 16) :
    execCall nnn s = .next ((pushPc s room).setPc (addr16 nnn)) := by
  have notFull : s.sp ≠ 16#5 := fun h => by simp [h] at room
  rw [execCall, if_neg notFull, dif_pos room]

/-- 00EE with `SP` 0 (R120; decision D3). -/
theorem execRet_of_empty {s : State} (empty : s.sp.toNat = 0) : execRet s = .next (FaultState 2#3 s) :=
  if_pos (BitVec.eq_of_toNat_eq empty)

/-- 00EE with an entry on the stack (R120). -/
theorem execRet_of_pos {s : State} (pos : 0 < s.sp.toNat) (legal : s.sp.toNat - 1 < 16) :
    execRet s = .next (popPc s legal) := by
  have nonempty : s.sp ≠ 0#5 := fun h => by simp [h] at pos
  rw [execRet, if_neg nonempty, dif_pos legal]

theorem execCall_followsTable (nnn : Addr) {s : State} (legal : s.sp.toNat ≤ 16) :
    FollowsTable (faultTable (.call nnn) s) (execCall nnn s) s := by
  by_cases full : s.sp.toNat = 16
  · rw [faultTable, if_pos full]
    exact execCall_of_full nnn full
  · rw [faultTable, if_neg full]
    exact ⟨_, execCall_of_lt nnn (by omega), rfl, rfl⟩

theorem execRet_followsTable {s : State} (legal : s.sp.toNat ≤ 16) :
    FollowsTable (faultTable .ret s) (execRet s) s := by
  by_cases empty : s.sp.toNat = 0
  · rw [faultTable, if_pos empty]
    exact execRet_of_empty empty
  · rw [faultTable, if_neg empty]
    exact ⟨_, execRet_of_pos (by omega) (by omega), rfl, rfl⟩

theorem execLdVxK_followsTable (x : RegIdx) (s : State) : FollowsTable none (execLdVxK x s) s := by
  unfold execLdVxK
  split <;> exact ⟨_, rfl, rfl, rfl⟩

/-- A write of memory that keeps it canonical keeps what every handler keeps. -/
theorem Kept.setMem {s : State} {m : Memory} (h : s.mem.wf = true → m.wf = true) : Kept s (s.setMem m) :=
  ⟨rfl, rfl, rfl, rfl, h, id⟩

/-- A BCD store keeps what every handler keeps (R173). -/
theorem Kept.storeBcd (a : Byte) (s : State) : Kept s (storeBcd a s) := by
  rw [storeBcd_eq]
  exact .setMem (storeBcd_wf a s)

/-- Every instruction follows the fault table, where `SP` is legal (R241). -/
theorem exec_followsTable (i : Instr) {s : State} (legal : s.sp.toNat ≤ 16) :
    FollowsTable (faultTable i s) (exec i s) s := by
  cases i with
  | call nnn => exact execCall_followsTable nnn legal
  | ret => exact execRet_followsTable legal
  | ldVxK x => exact execLdVxK_followsTable x s
  | seByte | sneByte | seReg | sneReg => exact followsTable_of_kept (.skipIf _ s)
  | skp x | sknp x => exact followsTable_of_check (map_code_checkKey s x) (.skipIf _ s)
  | ldB x => exact followsTable_of_check (map_code_checkRange_succ _ 2) (.storeBcd _ s)
  | storeRegs x => exact followsTable_of_check (map_code_checkRange_succ _ _) (.storeBytes _)
  | loadRegs x => exact followsTable_of_check (map_code_checkRange_succ _ _) (.loadBytes _)
  | drw x y n => exact followsTable_of_check (map_code_checkRange _ _) (.of_eqs rfl rfl rfl rfl rfl rfl)
  | cls | jp | ldByte | addByte | ldReg | orReg | andReg | xorReg | addReg | subReg | shr | subnReg | shl | ldI | jpV0
  | rnd | ldVxDT | ldDTVx | ldSTVx | addI | ldF | nop =>
    exact followsTable_of_kept (.of_eqs rfl rfl rfl rfl rfl rfl)

/-- Settles O12: each handler's check is its row of the table. -/
theorem faultsAreExactlyTheTabled : Obligations.FaultsAreExactlyTheTabled := fun i _ legal =>
  exec_followsTable i legal

/-! #### A halted core (R101, R246, R271) -/

/-- A transaction other than reset gives a halted core at most another keypad and memory. -/
theorem serve_of_halted {q : HostRequest} {s t : State} (halted : s.phase = .halted)
    (noReset : ∀ seed, q ≠ .construct seed) (h : serve q s = .next t) : ∃ k m, t = (s.setKey k).setMem m := by
  cases q with
  | construct seed => exact absurd rfl (noReset seed)
  | install image =>
    obtain ⟨m, -, hm⟩ := install_eq_setMem image s
    cases h
    exact ⟨s.key, m, hm⟩
  | keypad keys =>
    cases h
    exact ⟨keys, s.mem, rfl⟩
  | cycle =>
    have same : s = t := by simpa [serve, step, halted] using h
    exact ⟨s.key, s.mem, same.symm⟩

/-- A session's first transaction answers a next state where the whole session does. -/
theorem exists_serve_of_serveAll_cons {q : HostRequest} {qs : List HostRequest} {s t : State}
    (h : serveAll (q :: qs) s = .next t) : ∃ u, serve q s = .next u ∧ serveAll qs u = .next t := by
  unfold serveAll at h
  split at h
  · exact ⟨_, ‹_›, h⟩
  · cases h
  · cases h

/-- Settles O13: the state after each transaction is halted again and differs in the keypad and memory only. -/
theorem haltedUntilReset : Obligations.HaltedUntilReset := by
  intro qs
  induction qs with
  | nil =>
    intro s t _ _ h
    cases h
    rfl
  | cons q qs ih =>
    intro s t halted noReset h
    obtain ⟨u, hu, hrest⟩ := exists_serve_of_serveAll_cons h
    obtain ⟨k, m, rfl⟩ := serve_of_halted halted (fun seed hq => noReset seed (hq ▸ List.mem_cons_self)) hu
    exact ih ((s.setKey k).setMem m) t halted (fun seed hmem => noReset seed (List.mem_cons_of_mem q hmem)) hrest

end Sys2Proof.Machine

/-! ### Reset, install and the host's outputs (10_state.md R41, 60_exceptions.md R256 to R265) -/

namespace Sys2Proof.Machine

open Sys2Proof.Safety

/-- The font bytes are what the addresses from `FONT_BASE` on read as when unlisted (R39). -/
theorem some_unlistedByte_font {a : Nat} (h : a < 80) : some (unlistedByte (0x050 + a)) = fontGlyphs[a]? := by
  have length : a < fontGlyphs.length := h
  simp [unlistedByte, fontBase, length]

/-- Every other address reads as 0 when unlisted (R41). -/
theorem unlistedByte_outside_font {a : Nat} (h : a < 0x050 ∨ 0x050 + 80 ≤ a) : unlistedByte a = 0#8 := by
  unfold unlistedByte
  split
  · have beyond : fontGlyphs.length ≤ a - fontBase := by
      rw [show fontGlyphs.length = 80 from rfl]
      simp only [fontBase] at *
      omega
    rw [List.getD_eq_default _ _ beyond]
  · rfl

/-- A constructed core's memory reads as its reset content (R41). -/
theorem construct_readByte (seed a : Nat) : (construct seed).readByte a = unlistedByte a := rfl

/-- Settles O19: the reset values read element by element, memory through what an unlisted address reads as. -/
theorem resetState : Obligations.ResetState := by
  intro seed
  refine ⟨_, rfl, fun x => ?v, rfl, rfl, rfl, fun j hj => ?stack, rfl, rfl, fun r c => ?pixel, fun k => ?key, rfl, rfl,
    rfl, fun a ha => ?font, fun a ha => ?zero, rfl⟩
  case v => exact Vector.getElem_replicate x.isLt
  case stack => simp [construct, State.reset, hj]
  case pixel => exact pixel_setPix_zero (construct seed) r c
  case key => exact BitVec.getLsbD_zero
  case font => exact some_unlistedByte_font ha
  case zero => exact unlistedByte_outside_font ha

/-! #### Program install (R256) -/

/-- An install changes no byte outside the image's place (R256). -/
theorem installAt_read_outside (image : List Byte) {a b : Nat} {s : State} (memory : s.mem.wf = true)
    (outside : ∀ j, j < image.length → b ≠ a + j) : (installAt a image s).readByte b = s.readByte b := by
  induction image generalizing a s with
  | nil => rfl
  | cons u image ih =>
    have rest := ih (State.writeByte_wf s a u memory) (a := a + 1) fun j hj => by
      have := outside (j + 1) (Nat.succ_lt_succ hj)
      omega
    exact rest.trans (Memory.read_write_ne s.mem u memory (outside 0 (Nat.succ_pos _)))

/-- Byte `j` of the image stands at `a + j` (R256). -/
theorem installAt_read (image : List Byte) {a j : Nat} {s : State} (memory : s.mem.wf = true)
    (fits : a + image.length ≤ 4096) (hj : j < image.length) :
    some ((installAt a image s).readByte (a + j)) = image[j]? := by
  induction image generalizing a j s with
  | nil => exact absurd hj (Nat.not_lt_zero j)
  | cons u image ih =>
    have kept := State.writeByte_wf s a u memory
    rw [List.length_cons] at fits hj
    cases j with
    | zero =>
      have later := installAt_read_outside image (a := a + 1) (b := a) kept fun j _ => by omega
      rw [Nat.add_zero, installAt, later, State.readByte_writeByte s a u memory (by omega), if_pos rfl]
      rfl
    | succ j =>
      rw [← Nat.succ_add_eq_add_succ, List.getElem?_cons_succ]
      exact ih kept (by omega) (by omega)

/-- Settles O20: the image is written byte by byte from 0x200 on, below 0x1000, or the length check rejects it. -/
theorem installWritesTheImageOnly : Obligations.InstallWritesTheImageOnly := by
  intro image s memory
  refine ⟨fun fits => ⟨installAt 0x200 image s, if_neg (Nat.not_lt_of_le fits), installAt_wf image 0x200 s memory,
    fun j hj => installAt_read image memory (by omega) hj, fun e he => ?frame⟩, fun tooLong => if_pos tooLong⟩
  cases e with
  | mem a => exact installAt_read_outside image memory fun j hj h => he ⟨j, hj, congrArg Element.mem h⟩
  | _ => rw [installAt_eq]; rfl

/-! #### Outputs (R258, R262) -/

theorem tone_iff (s : State) : tone s = true ↔ s.st ≠ 0#8 := by
  simp [tone, Nat.pos_iff_ne_zero, ← BitVec.toNat_inj]

/-- Settles O22: each output is the state element it shows, the display and memory index by index. -/
theorem outputPortsShowTheState : Obligations.OutputPortsShowTheState := by
  intro s
  refine ⟨?pixels, fun r c hr hc => ?cell, rfl, tone_iff s, rfl, ?bytes, fun a ha => snapshot_mem_getElem? s ha,
    fun x => Vector.getElem?_eq_getElem x.isLt, rfl, rfl, rfl, rfl, rfl, rfl, rfl, snapshot_pix s, fun _ => rfl, rfl,
    rfl, rfl⟩
  case pixels => simp [displayPort]
  case cell =>
    have hdiv : (r * 64 + c) / 64 = r := by omega
    have hmod : (r * 64 + c) % 64 = c := by omega
    rw [displayPort_getElem? s (by omega), hdiv, hmod]
  case bytes => simp

/-! #### The representation of memory (20_memory.md R50) -/

/-- What a canonical list that begins with a cell says of the cell and of the rest. -/
theorem Memory.wfFrom_cons {lo a : Nat} {u : Byte} {m : Memory} (h : Memory.wfFrom lo ((a, u) :: m) = true) :
    lo ≤ a ∧ a < 4096 ∧ u ≠ unlistedByte a ∧ Memory.wfFrom (a + 1) m = true := by
  simpa [Memory.wfFrom, and_assoc] using h

/-- A canonical list is canonical from its first address up. -/
theorem Memory.wfFrom_head {lo a : Nat} {u : Byte} {m : Memory} (h : Memory.wfFrom lo ((a, u) :: m) = true) :
    Memory.wfFrom a ((a, u) :: m) = true := by
  obtain ⟨-, ha, listed, tail⟩ := Memory.wfFrom_cons h
  simp [Memory.wfFrom, ha, listed, tail]

/-- Where a canonical list reads at its first address as an unlisted one, no canonical list from a higher address on
reads alike. -/
theorem Memory.read_head_ne {lo a b : Nat} {u : Byte} {m n : Memory} (hm : Memory.wfFrom lo ((a, u) :: m) = true)
    (hn : Memory.wfFrom b n = true) (hab : a < b) : Memory.read ((a, u) :: m) a ≠ Memory.read n a := by
  obtain ⟨-, -, listed, -⟩ := Memory.wfFrom_cons hm
  rw [Memory.read_below n hn hab, Memory.read, if_pos rfl]
  exact listed

/-- The tails of two canonical lists with one first cell read alike where the lists do. -/
theorem Memory.read_tail_eq {a : Nat} {u : Byte} {m n : Memory} (hm : Memory.wfFrom (a + 1) m = true)
    (hn : Memory.wfFrom (a + 1) n = true)
    (alike : ∀ b, b < 4096 → Memory.read ((a, u) :: m) b = Memory.read ((a, u) :: n) b) (b : Nat) (hb : b < 4096) :
    Memory.read m b = Memory.read n b := by
  by_cases h : b ≤ a
  · rw [Memory.read_below m hm (by omega), Memory.read_below n hn (by omega)]
  · have hne : b ≠ a := by omega
    simpa [Memory.read, hne] using alike b hb

/-- Canonical lists that read alike are equal: by induction, since the first listed addresses must agree. -/
theorem Memory.eq_of_read_eq {lo : Nat} (m n : Memory) (hm : Memory.wfFrom lo m = true) (hn : Memory.wfFrom lo n = true)
    (alike : ∀ a, a < 4096 → Memory.read m a = Memory.read n a) : m = n := by
  induction m generalizing lo n with
  | nil =>
    cases n with
    | nil => rfl
    | cons c n =>
      obtain ⟨b, w⟩ := c
      obtain ⟨-, hb, -, -⟩ := Memory.wfFrom_cons hn
      exact absurd (alike b hb).symm (Memory.read_head_ne hn (b := b + 1) rfl (Nat.lt_succ_self b))
  | cons c m ih =>
    obtain ⟨a, u⟩ := c
    obtain ⟨-, ha, -, hm'⟩ := Memory.wfFrom_cons hm
    cases n with
    | nil => exact absurd (alike a ha) (Memory.read_head_ne hm (b := a + 1) rfl (Nat.lt_succ_self a))
    | cons d n =>
      obtain ⟨b, w⟩ := d
      obtain ⟨-, hb, -, hn'⟩ := Memory.wfFrom_cons hn
      obtain hab | rfl | hab := Nat.lt_trichotomy a b
      · exact absurd (alike a ha) (Memory.read_head_ne hm (Memory.wfFrom_head hn) hab)
      · obtain rfl : u = w := by simpa [Memory.read] using alike a ha
        rw [ih n hm' hn' (Memory.read_tail_eq hm' hn' alike)]
      · exact absurd (alike b hb).symm (Memory.read_head_ne hn (Memory.wfFrom_head hm) hab)

/-- Settles O23: the canonical form is one list for each 4096 bytes. -/
theorem memoriesThatReadAlikeAreEqual : Obligations.MemoriesThatReadAlikeAreEqual := fun m n =>
  Memory.eq_of_read_eq m n

/-- Settles O57: the snapshot holds every field, memory and display through what they read as. -/
theorem snapshotShowsTheWholeState : Obligations.SnapshotShowsTheWholeState := by
  intro s t memory memory'
  refine ⟨fun h => ?_, congrArg snapshot⟩
  have pix : s.pix = t.pix := displayPort_inj (by simpa only [snapshot_pix] using congrArg Snapshot.pix h)
  have mem : s.mem = t.mem := memoriesThatReadAlikeAreEqual _ _ memory memory' (readByte_of_snapshot_eq h)
  exact State.ext_fields (congrArg Snapshot.v h) (congrArg Snapshot.i h) (congrArg Snapshot.pc h)
    (congrArg Snapshot.sp h) (congrArg Snapshot.stack h) (congrArg Snapshot.dt h) (congrArg Snapshot.st h)
    (congrArg Snapshot.opcode h) (congrArg Snapshot.fault h) (congrArg Snapshot.phase h) pix (congrArg Snapshot.key h)
    mem (congrArg Snapshot.rng h)

end Sys2Proof.Machine

/-! ### Frames of several elements, and what a check decides -/

namespace Sys2Proof.Machine

open Sys2Proof.Safety

/-- A frame stays one when more elements may change. -/
theorem unchangedBut_mono {P Q : Element → Prop} {s t : State} (h : UnchangedBut P s t) (le : ∀ e, P e → Q e) :
    UnchangedBut Q s t :=
  fun e he => h e (mt (le e) he)

/-- Two frames one after the other. -/
theorem unchangedBut_trans {P Q : Element → Prop} {s t u : State} (h : UnchangedBut P s t) (h' : UnchangedBut Q t u) :
    UnchangedBut (fun e => P e ∨ Q e) s u := by
  intro e he
  obtain ⟨hp, hq⟩ := not_or.mp he
  have first := h e hp
  have second := h' e hq
  cases e <;> exact Eq.trans second first

/-- A check that finds nothing lets the handler write (R245). -/
theorem unlessFault_of_eq_none {check : Option FaultCause} (h : check = none) (s t : State) :
    unlessFault check s t = .next t := by
  rw [h, unlessFault_none]

/-- A check that finds a fault leaves the fault's state (R242, R244). -/
theorem unlessFault_of_eq_some {check : Option FaultCause} {c : FaultCause} (h : check = some c) (s t : State) :
    unlessFault check s t = .next (FaultState c.code s) := by
  rw [h, unlessFault_some, takeFault_eq_faultState]

/-- A block of `n + 1` bytes that ends inside memory (R56). -/
theorem checkRange_succ_eq_none {a n : Nat} (h : a + n ≤ 0xFFF) : checkRange a (n + 1) = none :=
  checkRange_eq_none.mpr (.inr h)

/-- A block of `n + 1` bytes that ends past memory (R56). -/
theorem checkRange_succ_eq_some {a n : Nat} (h : a + n > 0xFFF) : checkRange a (n + 1) = some .dataBounds :=
  checkRange_eq_some.mpr ⟨⟨Nat.succ_pos n, h⟩, rfl⟩

end Sys2Proof.Machine

/-! ### Flag-writing arithmetic, the order of the two writes, and the random byte (42_alu.md R141, R148 to R153) -/

namespace Sys2Proof.Machine

open Sys2Proof.Safety

/-- The two writes are seen in `V[x]` and `VF` alone (R141). -/
theorem writeResultAndFlag_unchangedBut (x : RegIdx) (r : Byte) (c : Bool) (s : State) :
    UnchangedBut (fun e => e = .v x ∨ e = .v VF) s (writeResultAndFlag x r c s) :=
  unchangedBut_mono (unchangedBut_trans (setV_unchangedBut_v s VF (flagByte c)) (setV_unchangedBut_v _ x r))
    fun _ => Or.symm

/-- What the two writes leave, for a result and a flag known as a number and a condition (R141). -/
theorem writeResultAndFlag_spec {x : RegIdx} {r : Byte} {c : Bool} {n : Nat} {flag : Bool} (result : r.toNat = n)
    (same : c = flag) (s : State) : ResultAndFlag x n flag s (writeResultAndFlag x r c s) := by
  subst same
  refine ⟨?_, writeResultAndFlag_getV_flag r c s, writeResultAndFlag_unchangedBut x r c s⟩
  rw [writeResultAndFlag_getV_result, result]

/-- Settles O27: the two writes, with the sum modulo 256 and the carry as R148 reads them. -/
theorem addRegSetsCarry : Obligations.AddRegSetsCarry := fun _ _ s =>
  ⟨_, rfl, writeResultAndFlag_spec (BitVec.toNat_add _ _) rfl s⟩

/-- A byte difference as a number, 256 up when it borrows (R149). -/
theorem toNat_sub_eq_ite (a b : Byte) :
    (a - b).toNat = if a.toNat ≥ b.toNat then a.toNat - b.toNat else a.toNat + 256 - b.toNat := by
  rw [BitVec.toNat_sub]
  split <;> omega

/-- Settles O28: the two writes, with the operands in either order. -/
theorem subtractionsSetNotBorrow : Obligations.SubtractionsSetNotBorrow := fun _ _ s =>
  ⟨⟨_, rfl, writeResultAndFlag_spec (toNat_sub_eq_ite _ _) rfl s⟩,
    ⟨_, rfl, writeResultAndFlag_spec (toNat_sub_eq_ite _ _) rfl s⟩⟩

/-- The bit a right shift moves out is the remainder (R150). -/
theorem lowBit_eq (a : Byte) : lowBit a = decide (a.toNat % 2 = 1) := Nat.testBit_zero a.toNat

/-- The bit a left shift moves out is set from 128 on (R152). -/
theorem highBit_eq (a : Byte) : highBit a = decide (a.toNat ≥ 128) := by
  refine Nat.testBit_eq_decide_div_mod_eq.trans ?_
  simp only [decide_eq_decide]
  omega

/-- A right shift halves (R150). -/
theorem toNat_ushiftRight_one (a : Byte) : (a >>> 1).toNat = a.toNat / 2 := by
  rw [BitVec.toNat_ushiftRight, Nat.shiftRight_eq_div_pow, Nat.pow_one]

/-- A left shift doubles modulo 256 (R152). -/
theorem toNat_shiftLeft_one (a : Byte) : (a <<< 1).toNat = 2 * a.toNat % 256 := by
  rw [BitVec.toNat_shiftLeft, Nat.shiftLeft_eq, Nat.pow_one, Nat.mul_comm]

/-- Settles O29: the two writes, with a shift as halving or doubling and the bit moved out as a remainder or a bound. -/
theorem shiftsMoveOneBitIntoTheFlag : Obligations.ShiftsMoveOneBitIntoTheFlag := fun _ _ s =>
  ⟨⟨_, rfl, writeResultAndFlag_spec (toNat_ushiftRight_one _) (lowBit_eq _) s⟩,
    ⟨_, rfl, writeResultAndFlag_spec (toNat_shiftLeft_one _) (highBit_eq _) s⟩⟩

/-- Writes of two different registers commute. -/
theorem setV_comm {x y : RegIdx} (h : x ≠ y) (a b : Byte) (s : State) :
    (s.setV x a).setV y b = (s.setV y b).setV x a := by
  simp only [State.setV, Vector.set_comm _ _ (mt BitVec.eq_of_toNat_eq h)]

/-- Settles O30: writes of two registers commute, and of two writes of `VF` the second stays. -/
theorem flagOrderMattersOnlyForVF : Obligations.FlagOrderMattersOnlyForVF := fun _ r c s =>
  ⟨fun h => setV_comm h.symm (flagByte c) r s, State.getV_setV_self _ VF r, State.getV_setV_self _ VF (flagByte c), rfl⟩

/-- A write of the random source's state is seen there alone. -/
theorem setRng_unchangedBut_rng (s : State) (r : Rng) : UnchangedBut (fun e => e = .rng) s (s.setRng r) := by
  intro e he
  cases e with
  | rng => exact absurd rfl he
  | _ => rfl

/-- Cxkk writes the random source's count and `V[x]` alone (R153). -/
theorem rnd_unchangedBut (x : RegIdx) (b : Byte) (s : State) :
    UnchangedBut (fun e => e = .v x ∨ e = .rng) s ((consumeDraw s).setV x b) :=
  unchangedBut_mono (unchangedBut_trans (setRng_unchangedBut_rng s _) (setV_unchangedBut_v _ x b)) fun _ => Or.symm

/-- Settles O31: one draw is consumed and its byte, masked, written to `V[x]`. -/
theorem rndMasksAFreeDraw : Obligations.RndMasksAFreeDraw := by
  intro x kk s
  refine ⟨_, rfl, State.getV_setV_self _ x _, fun k _ off => ?masked, rfl, rnd_unchangedBut x _ s⟩
  case masked => rw [State.getV_setV_self, BitVec.getLsbD_and, off, Bool.and_false]

end Sys2Proof.Machine

/-! ### Indexed jump, call and return (41_control_flow.md R120, R122, R127) -/

namespace Sys2Proof.Machine

open Sys2Proof.Safety

/-- Settles O33: the handler is one write of `PC`, and the target never wraps. -/
theorem indexedJumpAddsV0 : Obligations.IndexedJumpAddsV0 := fun nnn s =>
  ⟨_, rfl, indexedTarget_toNat s nnn, setPc_unchangedBut_pc s _⟩

/-- A push and a jump are seen in the new entry, `SP` and `PC` alone (R122). -/
theorem pushPc_setPc_unchangedBut (s : State) (h : s.sp.toNat < 16) (w : Word) :
    UnchangedBut (fun e => e = .stack s.sp.toNat ∨ e = .sp ∨ e = .pc) s ((pushPc s h).setPc w) := by
  intro e he
  cases e with
  | stack j =>
    have other : s.sp.toNat ≠ j := fun hj => he (.inl (congrArg Element.stack hj.symm))
    exact Vector.getElem?_set_ne h other
  | sp => exact absurd (.inr (.inl rfl)) he
  | pc => exact absurd (.inr (.inr rfl)) he
  | _ => rfl

/-- A pop is seen in `SP` and `PC` alone: the entry stays (R120, R35). -/
theorem popPc_unchangedBut (s : State) (h : s.sp.toNat - 1 < 16) :
    UnchangedBut (fun e => e = .sp ∨ e = .pc) s (popPc s h) := by
  intro e he
  cases e with
  | sp => exact absurd (.inl rfl) he
  | pc => exact absurd (.inr rfl) he
  | _ => rfl

/-- Settles O35: a call with room pushes and jumps, a return with an entry pops. -/
theorem callPushesAndRetPops : Obligations.CallPushesAndRetPops := by
  intro nnn s
  refine ⟨fun room => ⟨_, execCall_of_lt nnn room, ?entry, ?deeper, addr16_toNat nnn,
      pushPc_setPc_unchangedBut s room _⟩,
    fun pos legal => ⟨_, execRet_of_pos pos (by omega), ?target, ?shallower, popPc_unchangedBut s _⟩⟩
  case entry => exact Vector.getElem?_set_self room
  case deeper =>
    refine (BitVec.toNat_add s.sp 1#5).trans ?_
    exact Nat.mod_eq_of_lt (by simp; omega)
  case target => exact (Vector.getElem?_eq_getElem _).symm
  case shallower => exact BitVec.toNat_sub_of_le (by simp [BitVec.le_def]; omega)

/-- 2nnn with an `SP` that no run reaches (K24; log 2). -/
theorem execCall_of_gt (nnn : Addr) {s : State} (deep : s.sp.toNat > 16) :
    execCall nnn s = .refused .stackPointerOutOfRange := by
  have notFull : s.sp ≠ 16#5 := fun h => by simp [h] at deep
  rw [execCall, if_neg notFull, dif_neg (by omega)]

/-- 00EE with an `SP` that no run reaches (K24; log 2). -/
theorem execRet_of_gt {s : State} (deep : s.sp.toNat > 16) : execRet s = .refused .stackPointerOutOfRange := by
  have nonempty : s.sp ≠ 0#5 := fun h => by simp [h] at deep
  rw [execRet, if_neg nonempty, dif_neg (by omega)]

/-- Settles O36: the comparison of `SP` with its bound decides between the fault, the move and the refusal. -/
theorem stackLimitsFault : Obligations.StackLimitsFault := fun nnn _ =>
  ⟨execCall_of_full nnn, execRet_of_empty, fun deep => ⟨execCall_of_gt nnn deep, execRet_of_gt deep⟩⟩

/-- Settles O37: the return pops the entry the call pushed. -/
theorem callThenReturnRestoresPc : Obligations.CallThenReturnRestoresPc := by
  intro nnn s room
  obtain ⟨call, -⟩ := callPushesAndRetPops nnn s
  obtain ⟨t, hcall, entry, deeper, -, -⟩ := call room
  refine ⟨t, hcall, fun u sp stack => ?_⟩
  have depth : u.sp.toNat = s.sp.toNat + 1 := sp ▸ deeper
  obtain ⟨-, ret⟩ := callPushesAndRetPops nnn u
  obtain ⟨w, hret, target, shallower, -⟩ := ret (by omega) (by omega)
  rw [depth, Nat.add_sub_cancel] at target shallower
  rw [stack, entry, Option.some.injEq] at target
  exact ⟨w, hret, target, BitVec.eq_of_toNat_eq shallower⟩

end Sys2Proof.Machine

/-! ### Index and memory (43_index_memory.md R171 to R176) -/

namespace Sys2Proof.Machine

open Sys2Proof.Safety

/-- Settles O39: each handler is one write of `I`, and the glyph address never wraps. -/
theorem indexArithmetic : Obligations.IndexArithmetic := by
  intro x s
  refine ⟨⟨_, rfl, ?sum, setI_unchangedBut_i s _⟩, ⟨_, rfl, glyphAddr_toNat _, setI_unchangedBut_i s _⟩⟩
  case sum => rw [State.setI_i, BitVec.toNat_add, byte16_toNat]

/-- A write of memory is seen in memory alone. -/
theorem setMem_unchangedBut_mem (s : State) (m : Memory) : UnchangedBut (fun e => ∃ a, e = .mem a) s (s.setMem m) := by
  intro e he
  cases e with
  | mem a => exact absurd ⟨a, rfl⟩ he
  | _ => rfl

/-- A BCD store is seen in its three bytes alone (R173). -/
theorem storeBcd_unchangedBut (a : Byte) {s : State} (memory : s.mem.wf = true) :
    UnchangedBut (fun e => ∃ k, k < 3 ∧ e = .mem (effectiveAddr s k)) s (storeBcd a s) := by
  intro e he
  by_cases inMemory : ∃ b, e = .mem b
  · obtain ⟨b, rfl⟩ := inMemory
    have other {k : Nat} (hk : k < 3) : b ≠ effectiveAddr s k := fun h => he ⟨k, hk, congrArg Element.mem h⟩
    have wf0 := State.writeByte_wf s (effectiveAddr s 0) (hundreds a) memory
    have wf1 := State.writeByte_wf _ (effectiveAddr s 1) (tens a) wf0
    calc (storeBcd a s).readByte b
        = ((s.writeByte (effectiveAddr s 0) (hundreds a)).writeByte (effectiveAddr s 1) (tens a)).readByte b :=
          Memory.read_write_ne _ _ wf1 (other (by omega))
      _ = (s.writeByte (effectiveAddr s 0) (hundreds a)).readByte b := Memory.read_write_ne _ _ wf0 (other (by omega))
      _ = s.readByte b := Memory.read_write_ne _ _ memory (other (by omega))
  · rw [storeBcd_eq]
    exact setMem_unchangedBut_mem s _ e inMemory

/-- Settles O40: three writes where the block fits, and the range check's fault where it does not. -/
theorem bcdStoresThreeDigits : Obligations.BcdStoresThreeDigits := by
  intro x s memory
  refine ⟨fun fits => ⟨_, unlessFault_of_eq_none (checkRange_succ_eq_none fits) s _, ?hundreds, ?tens, ?ones,
    storeBcd_unchangedBut _ memory⟩, fun past => unlessFault_of_eq_some (checkRange_succ_eq_some past) s _⟩
  all_goals
    obtain ⟨hundredsEq, tensEq, onesEq⟩ := bcd_digits (s.getV x)
    rw [storeBcd_read _ s _ memory (by omega)]
    simp [effectiveAddr, *]

/-- A store transfer is seen in the bytes it names alone (R174). -/
theorem storeBytes_unchangedBut (n : Nat) {s : State} (memory : s.mem.wf = true) :
    UnchangedBut (fun e => ∃ k, k < n ∧ e = .mem (effectiveAddr s k)) s (storeBytes n s) := by
  intro e he
  by_cases inMemory : ∃ a, e = .mem a
  · obtain ⟨a, rfl⟩ := inMemory
    exact storeBytes_read_outside n s memory fun k hk h => he ⟨k, hk, congrArg Element.mem h⟩
  · rw [storeBytes_eq]
    exact setMem_unchangedBut_mem s _ e inMemory

/-- A register's number gives the register back. -/
theorem ofNat_toNat_regIdx (z : RegIdx) : BitVec.ofNat 4 z.toNat = z := by
  rw [BitVec.ofNat_toNat, BitVec.setWidth_eq]

/-- Settles O41: the transfer writes byte after byte where the block fits, and the range check faults where it does
not. -/
theorem storeRegsWritesTheBlock : Obligations.StoreRegsWritesTheBlock := by
  intro x s memory
  refine ⟨fun fits => ⟨_, unlessFault_of_eq_none (checkRange_succ_eq_none fits) s _, fun z hz => ?byte, ?frame⟩,
    fun past => unlessFault_of_eq_some (checkRange_succ_eq_some past) s _⟩
  case byte =>
    have stored := storeBytes_read (x.toNat + 1) s memory (by omega) (Nat.lt_succ_of_le hz)
    rwa [ofNat_toNat_regIdx] at stored
  case frame =>
    exact unchangedBut_mono (storeBytes_unchangedBut _ memory) fun _ ⟨k, hk, he⟩ => ⟨k, Nat.le_of_lt_succ hk, he⟩

/-- A load transfer is seen in the registers it names alone (R175). -/
theorem loadBytes_unchangedBut (x : RegIdx) (s : State) :
    UnchangedBut (fun e => ∃ z : RegIdx, z.toNat ≤ x.toNat ∧ e = .v z) s (loadBytes (x.toNat + 1) s) := by
  intro e he
  cases e with
  | v y =>
    have above : ¬ y.toNat < x.toNat + 1 := fun h => he ⟨y, Nat.le_of_lt_succ h, rfl⟩
    exact (loadBytes_getV _ s x.isLt y).trans (if_neg above)
  | _ => rw [loadBytes_eq]; rfl

/-- Settles O42: the transfer loads register after register where the block fits, and the range check faults where it
does not. -/
theorem loadRegsReadsTheBlock : Obligations.LoadRegsReadsTheBlock := by
  intro x s
  refine ⟨fun fits => ⟨_, unlessFault_of_eq_none (checkRange_succ_eq_none fits) s _, fun z hz => ?register,
    loadBytes_unchangedBut x s⟩, fun past => unlessFault_of_eq_some (checkRange_succ_eq_some past) s _⟩
  case register => exact (loadBytes_getV _ s x.isLt z).trans (if_pos (Nat.lt_succ_of_le hz))

/-- Settles O43: the load reads the bytes the store wrote. -/
theorem storeThenLoadRestores : Obligations.StoreThenLoadRestores := by
  intro x s memory fits
  obtain ⟨store, -⟩ := storeRegsWritesTheBlock x s memory
  obtain ⟨t, hstore, stored, -⟩ := store fits
  refine ⟨t, hstore, fun u index alike => ?_⟩
  obtain ⟨load, -⟩ := loadRegsReadsTheBlock x u
  obtain ⟨w, hload, loaded, -⟩ := load (index ▸ fits)
  refine ⟨w, hload, fun z hz => ?_⟩
  calc w.getV z = u.readByte (effectiveAddr u z.toNat) := loaded z hz
    _ = t.readByte (effectiveAddr s z.toNat) := by rw [alike, effectiveAddr, effectiveAddr, index]
    _ = s.getV z := stored z hz

/-- Settles O44: both bytes the next fetch reads are bytes of the stored block. -/
theorem storedCodeIsFetchedNext : Obligations.StoredCodeIsFetchedNext := by
  intro x s z memory fits covered atPc
  have numbers (k : Nat) (hk : k ≤ x.toNat) : (BitVec.ofNat 4 k).toNat = k := by
    rw [BitVec.toNat_ofNat, Nat.mod_eq_of_lt (by omega)]
  obtain ⟨store, -⟩ := storeRegsWritesTheBlock x s memory
  obtain ⟨t, hstore, stored, frame⟩ := store fits
  have byte (k : Nat) (hk : k ≤ x.toNat) : t.readByte (effectiveAddr s k) = s.getV (BitVec.ofNat 4 k) := by
    have := stored (BitVec.ofNat 4 k) (by rwa [numbers k hk])
    rwa [numbers k hk] at this
  have pc : t.pc = s.pc := frame .pc (by simp)
  refine ⟨t, hstore, ?_⟩
  rw [fetchedWord, pc, atPc, byte z (by omega), show effectiveAddr s z + 1 = effectiveAddr s (z + 1) from rfl,
    byte (z + 1) covered]
  rfl

end Sys2Proof.Machine

/-! ### Sprite drawing (44_graphics.md R191 to R193) -/

namespace Sys2Proof.Machine

open Sys2Proof.Safety

/-- The rows and bits of a drawn sprite are the cells `SpriteCovers` names. -/
theorem rowsCover_iff_spriteCovers (s : State) (x y : RegIdx) (n r c : Nat) :
    RowsCover s (startColumn s x) (startRow s y) n r c ↔ SpriteCovers s x y n r c := by
  constructor
  · rintro ⟨j, hj, hrow, b, hb, hcol, hbit⟩
    exact ⟨j, b, hj, hb, hrow, hcol, hbit⟩
  · rintro ⟨j, b, hj, hb, hrow, hcol, hbit⟩
    exact ⟨j, hj, hrow, b, hb, hcol, hbit⟩

theorem flagByte_eq_one {c : Bool} : flagByte c = 1#8 ↔ c = true := by cases c <;> decide

theorem flagByte_eq_zero {c : Bool} : flagByte c = 0#8 ↔ ¬ c = true := by cases c <;> decide

/-- A drawn display and the flag are seen in the cells of the frame and in `VF` alone. -/
theorem setPix_setV_VF_unchangedBut (s : State) (d : Display) (b : Byte) :
    UnchangedBut (fun e => e = .v VF ∨ ∃ r c, r < 32 ∧ c < 64 ∧ e = .pixel r c) s ((s.setPix d).setV VF b) :=
  unchangedBut_mono (unchangedBut_trans (setPix_unchangedBut_pixel s d) (setV_unchangedBut_v _ VF b)) fun _ => Or.symm

/-- Settles O46: the drawing laws, with the covered cells read as R192 and R193 say. -/
theorem drwTogglesCoveredCells : Obligations.DrwTogglesCoveredCells := by
  intro x y n s
  obtain ⟨toggles, collides⟩ := drawSprite_spec s (startColumn s x) (startRow s y) n.toNat
  simp only [rowsCover_iff_spriteCovers] at toggles collides
  refine ⟨fun fits => ⟨_, unlessFault_of_eq_none (checkRange_eq_none.mpr fits) s _, toggles, ?_, ?_,
      setPix_setV_VF_unchangedBut s _ _⟩,
    fun pos past => unlessFault_of_eq_some (checkRange_eq_some.mpr ⟨⟨pos, past⟩, rfl⟩) s _⟩
  · rw [State.getV_setV_self, flagByte_eq_one]
    exact collides
  · rw [State.getV_setV_self, flagByte_eq_zero]
    exact not_congr collides

/-- A sprite covers the same cells in every state with the same coordinates, `I` and memory. -/
theorem spriteCovers_congr {s t : State} {x y : RegIdx} (column : t.getV x = s.getV x) (row : t.getV y = s.getV y)
    (index : t.i = s.i) (memory : ∀ a, t.readByte a = s.readByte a) (n r c : Nat) :
    SpriteCovers t x y n r c ↔ SpriteCovers s x y n r c := by
  simp only [SpriteCovers, column, row, index, memory]

/-- A bit that the second of two changes toggles exactly when the first does ends as it began. -/
theorem eq_of_toggled_twice {a b c : Bool} (h : c ≠ b ↔ b ≠ a) : c = a := by
  revert a b c
  decide

/-- Settles O47: the second draw covers the same cells, so it toggles each of them back, and after a first draw without
collision it meets them all lit. -/
theorem drawingTwiceRestoresTheDisplay : Obligations.DrawingTwiceRestoresTheDisplay := by
  intro x y n s hx hy fits
  obtain ⟨draw, -⟩ := drwTogglesCoveredCells x y n s
  obtain ⟨t, ht, toggled, -, unlit, frame⟩ := draw fits
  have index : t.i = s.i := frame .i (by simp)
  have column : t.getV x = s.getV x := frame (.v x) (by simpa using hx)
  have row : t.getV y = s.getV y := frame (.v y) (by simpa using hy)
  have covers := spriteCovers_congr column row index (fun a => frame (.mem a) (by simp)) n.toNat
  obtain ⟨redraw, -⟩ := drwTogglesCoveredCells x y n t
  obtain ⟨u, hu, toggledBack, collision, -, -⟩ := redraw (index ▸ fits)
  simp only [covers] at toggledBack collision
  refine ⟨t, u, ht, hu, fun r c hr hc => ?restored, fun noCollision => collision.trans ?lit⟩
  case restored =>
    exact eq_of_toggled_twice ((toggledBack r c hr hc).trans (toggled r c hr hc).symm)
  case lit =>
    refine ⟨fun ⟨r, c, hr, hc, covered, _⟩ => ⟨r, c, hr, hc, covered⟩, fun ⟨r, c, hr, hc, covered⟩ => ?_⟩
    have wasOff : s.pixel r c = false :=
      Bool.eq_false_iff.mpr fun on => unlit.mp noCollision ⟨r, c, hr, hc, covered, on⟩
    have changed : t.pixel r c ≠ s.pixel r c := (toggled r c hr hc).mpr covered
    exact ⟨r, c, hr, hc, covered, by simpa [wasOff] using changed⟩

end Sys2Proof.Machine

/-! ### The keypad (45_timers_keypad.md R210, R211, R213, R217) -/

namespace Sys2Proof.Machine

open Sys2Proof.Safety

/-- Settles O49: each handler is a `skipIf` on the key's state once the key check passes. -/
theorem keySkipsTestOneKey : Obligations.KeySkipsTestOneKey := by
  intro x s
  refine ⟨fun inRange => ?skips, fun beyond => ?faults⟩
  case skips =>
    have noFault := unlessFault_of_eq_none (checkKey_eq_none.mpr inRange) s
    refine ⟨⟨_, noFault _, skipIf_unchangedBut_pc _ s, skipIf_pc_toNat _ s⟩,
      ⟨_, noFault _, skipIf_unchangedBut_pc _ s, (skipIf_pc_toNat _ s).trans ?_⟩⟩
    cases s.keyDown (s.getV x).toNat <;> rfl
  case faults =>
    have fault := unlessFault_of_eq_some (checkKey_eq_some.mpr ⟨beyond, rfl⟩) s
    exact ⟨fault _, fault _⟩

/-- Fx0A while no key is pressed (R213). -/
theorem execLdVxK_of_none (x : RegIdx) {s : State} (none : ∀ k, k < 16 → s.keyDown k = false) :
    execLdVxK x s = .next (rewindPc s) := by
  rw [execLdVxK, leastKey_eq_none.mpr none]

/-- Fx0A with `k` the least pressed key (R213). -/
theorem execLdVxK_of_least (x : RegIdx) {s : State} {k : Nat} (hk : k < 16) (down : s.keyDown k = true)
    (least : ∀ j, j < k → s.keyDown j = false) : execLdVxK x s = .next (s.setV x (BitVec.ofNat 8 k)) := by
  rw [execLdVxK, leastKey_eq_some.mpr ⟨hk, down, least⟩]

/-- Settles O50: one write, of `PC` while no key is pressed and of `V[x]` otherwise. -/
theorem waitForKeyTakesTheLeastKey : Obligations.WaitForKeyTakesTheLeastKey := by
  intro x s
  refine ⟨fun none => ⟨_, execLdVxK_of_none x none, rfl, setPc_unchangedBut_pc s _⟩, fun k hk down least =>
    ⟨_, execLdVxK_of_least x hk down least, ?value, setV_unchangedBut_v s x _⟩⟩
  case value => rw [State.getV_setV_self, BitVec.toNat_ofNat, Nat.mod_eq_of_lt (by omega)]

end Sys2Proof.Machine

/-! ### What each instruction may write (10_state.md R22, R26 to R38, 20_memory.md R51) -/

namespace Sys2Proof.Machine

open Sys2Proof.Safety

/-- A next state that is not halted is the handler's own, not its fault (R244, R245). -/
theorem eq_own_of_unlessFault {check : Option FaultCause} {s t u : State} (h : unlessFault check s t = .next u)
    (runs : u.phase ≠ .halted) : u = t := by
  obtain ⟨-, rfl⟩ | ⟨c, -, rfl⟩ := unlessFault_eq_next.mp h
  · rfl
  · exact absurd (takeFault_phase c s) runs

/-- `e` lies outside memory, or memory is canonical: the premise under which a write to another address leaves `e`
alone. -/
def ReadsSoundly (e : Element) (s : State) : Prop := s.mem.wf = true ∨ ∀ a, e ≠ .mem a

/-- A handler that writes memory alone, and a frame of it for canonical memory, leaves every element outside the
frame. -/
theorem same_of_setMem {P : Element → Prop} {s : State} {m : Memory} {e : Element} (sound : ReadsSoundly e s)
    (frame : s.mem.wf = true → UnchangedBut P s (s.setMem m)) (he : ¬ P e) : e.same s (s.setMem m) := by
  obtain memory | outside := sound
  · exact frame memory e he
  · exact setMem_unchangedBut_mem s m e fun ⟨a, h⟩ => outside a h

theorem execCall_frame {nnn : Addr} {s t : State} (h : execCall nnn s = .next t) (runs : t.phase ≠ .halted) :
    UnchangedBut (mayWrite (.call nnn) s) s t := by
  unfold execCall at h
  split at h
  · cases h
    exact absurd rfl runs
  · split at h
    · cases h
      exact unchangedBut_mono (pushPc_setPc_unchangedBut s _ _) fun _ => by simp only [mayWrite]; tauto
    · cases h

theorem execRet_frame {s t : State} (h : execRet s = .next t) (runs : t.phase ≠ .halted) :
    UnchangedBut (mayWrite .ret s) s t := by
  unfold execRet at h
  split at h
  · cases h
    exact absurd rfl runs
  · split at h
    · cases h
      exact popPc_unchangedBut s _
    · cases h

theorem execLdVxK_frame {x : RegIdx} {s t : State} (h : execLdVxK x s = .next t) :
    UnchangedBut (mayWrite (.ldVxK x) s) s t := by
  unfold execLdVxK at h
  split at h <;> cases h
  · exact unchangedBut_mono (setPc_unchangedBut_pc s _) fun _ => .inr
  · exact unchangedBut_mono (setV_unchangedBut_v s x _) fun _ => .inl

/-- Every handler that does not fault writes only the elements the spec's tables give its instruction. Only the claim
about memory needs memory canonical. -/
theorem exec_frame {i : Instr} {s t : State} {e : Element} (sound : ReadsSoundly e s) (h : exec i s = .next t)
    (runs : t.phase ≠ .halted) (he : ¬ mayWrite i s e) : e.same s t := by
  cases i with
  | ret => exact execRet_frame h runs e he
  | call nnn => exact execCall_frame h runs e he
  | ldVxK x => exact execLdVxK_frame h e he
  | jp | jpV0 =>
    cases h
    exact setPc_unchangedBut_pc s _ e he
  | seByte | sneByte | seReg | sneReg =>
    cases h
    exact skipIf_unchangedBut_pc _ s e he
  | skp | sknp =>
    obtain rfl := eq_own_of_unlessFault h runs
    exact skipIf_unchangedBut_pc _ s e he
  | ldByte | addByte | ldReg | orReg | andReg | xorReg | ldVxDT =>
    cases h
    exact setV_unchangedBut_v s _ _ e he
  | addReg | subReg | shr | subnReg | shl =>
    cases h
    exact writeResultAndFlag_unchangedBut _ _ _ s e he
  | ldI | addI | ldF =>
    cases h
    exact setI_unchangedBut_i s _ e he
  | rnd =>
    cases h
    exact rnd_unchangedBut _ _ s e he
  | ldDTVx =>
    cases h
    exact setDt_unchangedBut_dt s _ e he
  | ldSTVx =>
    cases h
    exact setSt_unchangedBut_st s _ e he
  | cls =>
    cases h
    exact setPix_unchangedBut_pixel s _ e fun ⟨r, c, _, _, hpixel⟩ => he ⟨r, c, hpixel⟩
  | drw x y n =>
    obtain rfl := eq_own_of_unlessFault h runs
    exact setPix_setV_VF_unchangedBut s _ _ e fun written =>
      he (written.imp_right fun ⟨r, c, _, _, hpixel⟩ => ⟨r, c, hpixel⟩)
  | ldB x =>
    obtain rfl := eq_own_of_unlessFault h runs
    rw [storeBcd_eq]
    exact same_of_setMem sound (storeBcd_eq _ s ▸ storeBcd_unchangedBut _) he
  | storeRegs x =>
    obtain rfl := eq_own_of_unlessFault h runs
    rw [storeBytes_eq]
    exact same_of_setMem sound (storeBytes_eq _ s ▸ storeBytes_unchangedBut _) fun ⟨k, hk, hmem⟩ =>
      he ⟨k, Nat.le_of_lt_succ hk, hmem⟩
  | loadRegs x =>
    obtain rfl := eq_own_of_unlessFault h runs
    exact loadBytes_unchangedBut x s e he
  | nop w =>
    cases h
    cases e <;> rfl

/-- Settles O54: the frame of each handler, memory being canonical. -/
theorem eachInstructionWritesOnlyItsElements : Obligations.EachInstructionWritesOnlyItsElements :=
  fun _ _ _ memory h _ runs _ he => exec_frame (.inl memory) h runs he

end Sys2Proof.Machine

/-! ### Elements no instruction reads (10_state.md R30, R35, R40) -/

namespace Sys2Proof.Machine

open Sys2Proof.Safety

/-- `ST`, `OPCODE` and the stack replaced by functions of themselves. -/
def State.mapHidden (f : Byte → Byte) (g : Word → Word) (k : Vector Word 16 → Vector Word 16) (s : State) : State :=
  { s with st := f s.st, opcode := g s.opcode, stack := k s.stack }

/-- A function of the next state, on an answer. -/
def mapNext (f : State → State) : Result → Result
  | .next t => .next (f t)
  | .fault r => .fault r
  | .refused r => .refused r

section
variable (f : Byte → Byte) (g : Word → Word) (k : Vector Word 16 → Vector Word 16)

/-- A check that does not look at the hidden elements and a handler that commutes with their replacement. -/
theorem unlessFault_mapHidden (check : Option FaultCause) {s t u : State} (h : u = t.mapHidden f g k) :
    unlessFault check (s.mapHidden f g k) u = mapNext (.mapHidden f g k) (unlessFault check s t) := by
  subst h
  cases check <;> rfl

theorem skipIf_mapHidden (cond : Bool) (s : State) :
    skipIf cond (s.mapHidden f g k) = (skipIf cond s).mapHidden f g k := by
  cases cond <;> rfl

theorem writeByte_mapHidden (a : Nat) (b : Byte) (s : State) :
    (s.mapHidden f g k).writeByte a b = (s.writeByte a b).mapHidden f g k := rfl

theorem effectiveAddr_mapHidden (n : Nat) (s : State) : effectiveAddr (s.mapHidden f g k) n = effectiveAddr s n := rfl

theorem storeBcd_mapHidden (a : Byte) (s : State) :
    storeBcd a (s.mapHidden f g k) = (storeBcd a s).mapHidden f g k := by
  simp only [storeBcd, writeByte_mapHidden, effectiveAddr_mapHidden]

theorem storeBytes_mapHidden (n : Nat) (s : State) :
    storeBytes n (s.mapHidden f g k) = (storeBytes n s).mapHidden f g k :=
  List.foldl_hom (State.mapHidden f g k) fun _ _ => rfl

theorem loadBytes_mapHidden (n : Nat) (s : State) :
    loadBytes n (s.mapHidden f g k) = (loadBytes n s).mapHidden f g k :=
  List.foldl_hom (State.mapHidden f g k) fun _ _ => rfl

theorem execLdVxK_mapHidden (x : RegIdx) (s : State) :
    execLdVxK x (s.mapHidden f g k) = mapNext (.mapHidden f g k) (execLdVxK x s) := by
  unfold execLdVxK
  rw [show leastKey (s.mapHidden f g k) = leastKey s from rfl]
  cases leastKey s <;> rfl

/-- Every instruction but call, return and Fx18 commutes with a replacement of `ST`, `OPCODE` and the stack. -/
theorem exec_mapHidden (i : Instr) (s : State) (hcall : ∀ nnn, i ≠ .call nnn) (hret : i ≠ .ret)
    (hst : ∀ x, i ≠ .ldSTVx x) : exec i (s.mapHidden f g k) = mapNext (.mapHidden f g k) (exec i s) := by
  cases i with
  | call nnn => exact absurd rfl (hcall nnn)
  | ret => exact absurd rfl hret
  | ldSTVx x => exact absurd rfl (hst x)
  | ldVxK x => exact execLdVxK_mapHidden f g k x s
  | seByte | sneByte | seReg | sneReg => exact congrArg Host.Outcome.next (skipIf_mapHidden f g k _ s)
  | skp | sknp => exact unlessFault_mapHidden f g k _ (skipIf_mapHidden f g k _ s)
  | storeRegs x => exact unlessFault_mapHidden f g k _ (storeBytes_mapHidden f g k _ s)
  | loadRegs x => exact unlessFault_mapHidden f g k _ (loadBytes_mapHidden f g k _ s)
  | ldB x => exact unlessFault_mapHidden f g k _ (storeBcd_mapHidden f g k _ s)
  | drw x y n => exact unlessFault_mapHidden f g k _ rfl
  | cls | jp | ldByte | addByte | ldReg | orReg | andReg | xorReg | addReg | subReg | shr | subnReg | shl | ldI | jpV0
  | rnd | ldVxDT | ldDTVx | addI | ldF | nop => rfl

/-- A call looks at the stack pointer and at neither `ST` nor `OPCODE`. -/
theorem execCall_mapHidden (nnn : Addr) (s : State) :
    execCall nnn (s.mapHidden f g id) = mapNext (.mapHidden f g id) (execCall nnn s) := by
  obtain room | full | deep := Nat.lt_trichotomy s.sp.toNat 16
  · rw [execCall_of_lt nnn room]
    exact execCall_of_lt nnn (s := s.mapHidden f g id) room
  · rw [execCall_of_full nnn full]
    exact execCall_of_full nnn (s := s.mapHidden f g id) full
  · rw [execCall_of_gt nnn deep]
    exact execCall_of_gt nnn (s := s.mapHidden f g id) deep

/-- A return looks at the stack and at neither `ST` nor `OPCODE`. -/
theorem execRet_mapHidden (s : State) :
    execRet (s.mapHidden f g id) = mapNext (.mapHidden f g id) (execRet s) := by
  by_cases empty : s.sp.toNat = 0
  · rw [execRet_of_empty empty]
    exact execRet_of_empty (s := s.mapHidden f g id) empty
  by_cases legal : s.sp.toNat ≤ 16
  · rw [execRet_of_pos (s := s) (by omega) (by omega)]
    exact execRet_of_pos (s := s.mapHidden f g id) (Nat.pos_of_ne_zero empty) _
  · rw [execRet_of_gt (s := s) (by omega)]
    exact execRet_of_gt (s := s.mapHidden f g id) (Nat.lt_of_not_le legal)

end

/-- Settles O55: every instruction commutes with a replacement of `ST` and `OPCODE`, but that Fx18 then writes `ST`. -/
theorem hiddenRegistersAreNotRead : Obligations.HiddenRegistersAreNotRead := by
  intro i s t b w h
  have transfer (blind : exec i (s.mapHidden (fun _ => b) (fun _ => w) id) =
      mapNext (.mapHidden (fun _ => b) (fun _ => w) id) (exec i s)) :
      exec i { s with st := b, opcode := w } = .next { t with st := b, opcode := w } := by
    rw [h] at blind
    exact blind
  cases i with
  | ldSTVx x =>
    cases h
    rfl
  | call nnn => exact transfer (execCall_mapHidden _ _ nnn s)
  | ret => exact transfer (execRet_mapHidden _ _ s)
  | _ => exact transfer (exec_mapHidden _ _ _ _ s (by simp) (by simp) (by simp))

/-- The two stacks agree below the depth `d`. -/
def AgreeBelow (d : Nat) (k l : Vector Word 16) : Prop := ∀ j, j < d → k[j]? = l[j]?

/-- Writing the same entry at the depth makes two stacks agree one deeper (R122). -/
theorem agreeBelow_set {d : Nat} {k l : Vector Word 16} (agree : AgreeBelow d k l) (h : d < 16) (w : Word) :
    AgreeBelow (d + 1) (k.set d w) (l.set d w) := by
  intro j hj
  by_cases top : d = j
  · subst top
    rw [Vector.getElem?_set_self h, Vector.getElem?_set_self h]
  · rw [Vector.getElem?_set_ne h top, Vector.getElem?_set_ne h top]
    exact agree j (by omega)

/-- With `k` for the stack, `r` answers the same next state `t`, but for a stack that agrees with `t`'s below its
`SP`. -/
def StackUnseen (r : State → Result) (s t : State) (k : Vector Word 16) : Prop :=
  ∃ k' : Vector Word 16, r { s with stack := k } = .next { t with stack := k' } ∧ AgreeBelow t.sp.toNat k' t.stack

theorem execCall_stackUnseen {nnn : Addr} {s t : State} {k : Vector Word 16} (agree : AgreeBelow s.sp.toNat k s.stack)
    (h : execCall nnn s = .next t) : StackUnseen (execCall nnn) s t k := by
  obtain room | full | deep := Nat.lt_trichotomy s.sp.toNat 16
  · rw [execCall_of_lt nnn room] at h
    cases h
    have deeper : (s.sp + 1#5).toNat = s.sp.toNat + 1 := by
      rw [BitVec.toNat_add]
      simp; omega
    refine ⟨k.set s.sp.toNat s.pc, execCall_of_lt nnn (s := { s with stack := k }) room, ?_⟩
    simpa only [State.setPc_sp, State.setPc_stack, pushPc_eq, State.setSp_sp, State.setSp_stack, State.setStack_stack,
      deeper] using agreeBelow_set agree room s.pc
  · rw [execCall_of_full nnn full] at h
    cases h
    exact ⟨k, execCall_of_full nnn (s := { s with stack := k }) full, agree⟩
  · rw [execCall_of_gt nnn deep] at h
    cases h

theorem execRet_stackUnseen {s t : State} {k : Vector Word 16} (agree : AgreeBelow s.sp.toNat k s.stack)
    (h : execRet s = .next t) : StackUnseen execRet s t k := by
  by_cases empty : s.sp.toNat = 0
  · rw [execRet_of_empty empty] at h
    cases h
    exact ⟨k, execRet_of_empty (s := { s with stack := k }) empty, agree⟩
  by_cases legal : s.sp.toNat ≤ 16
  · have inside : s.sp.toNat - 1 < 16 := by omega
    rw [execRet_of_pos (by omega) inside] at h
    cases h
    have entry : k[s.sp.toNat - 1] = s.stack[s.sp.toNat - 1] := by
      have := agree (s.sp.toNat - 1) (by omega)
      simpa only [Vector.getElem?_eq_getElem inside, Option.some.injEq] using this
    have shallower : (s.sp - 1#5).toNat ≤ s.sp.toNat := by
      rw [BitVec.toNat_sub_of_le (by simp [BitVec.le_def]; omega)]
      omega
    refine ⟨k, ?_, fun j hj => agree j (Nat.lt_of_lt_of_le hj shallower)⟩
    rw [execRet_of_pos (s := { s with stack := k }) (Nat.pos_of_ne_zero empty) inside]
    simp only [popPc_eq, State.setPc, State.setSp, entry]
  · rw [execRet_of_gt (by omega)] at h
    cases h

/-- Every instruction but call and return leaves `SP` and the stack alone, a fault included (R35, R244). -/
theorem exec_keeps_stack {i : Instr} {s t : State} (hcall : ∀ nnn, i ≠ .call nnn) (hret : i ≠ .ret)
    (h : exec i s = .next t) : t.stack = s.stack ∧ t.sp = s.sp := by
  cases exec_controlMove h with
  | straight stack sp => exact ⟨stack, sp⟩
  | push nnn call => exact absurd call (hcall nnn)
  | pop ret => exact absurd ret hret

/-- Settles O56: a call writes its entry over whatever stood there, a return reads below `SP`, and every other
instruction commutes with a replacement of the stack. -/
theorem stackAboveDepthIsInvisible : Obligations.StackAboveDepthIsInvisible := by
  intro i s t k agree h
  have transfer (hcall : ∀ nnn, i ≠ .call nnn) (hret : i ≠ .ret)
      (blind : exec i (s.mapHidden id id fun _ => k) = mapNext (.mapHidden id id fun _ => k) (exec i s)) :
      StackUnseen (exec i) s t k := by
    obtain ⟨stack, sp⟩ := exec_keeps_stack hcall hret h
    rw [h] at blind
    exact ⟨k, blind, sp ▸ stack ▸ agree⟩
  cases i with
  | call nnn => exact execCall_stackUnseen agree h
  | ret => exact execRet_stackUnseen agree h
  | ldSTVx x => exact transfer (by simp) (by simp) rfl
  | _ => exact transfer (by simp) (by simp) (exec_mapHidden _ _ _ _ s (by simp) (by simp) (by simp))

end Sys2Proof.Machine

/-! ### Whole cycles (40_cycle.md R101 to R107, 70_reset_and_hazards.md R276) -/

namespace Sys2Proof.Machine

open Sys2Proof.Safety

/-- A step of a running core whose `PC` can be fetched is the decoded handler and then the end of the cycle (R102). -/
theorem step_eq_finish {s : State} (running : s.phase ≠ .halted) (fetchable : s.pc.toNat ≤ 0xFFE) :
    step s = finish (exec (decodeWord (fetchedWord s)) (latch (fetchedWord s) s)) := by
  rw [step, if_neg running, checkFetch_eq_none.mpr fetchable]

/-- The end of a cycle leaves a faulted state alone and completes any other (R102). -/
theorem endCycle_eq_ite (s : State) : endCycle s = if s.phase = .halted then s else CompletedCycle s := by
  split
  · exact endCycle_of_halted ‹_›
  · exact endCycle_eq_completedCycle ‹_›

/-- The instruction the two bytes at `PC` decode to is the one the fetched word selects (R54). -/
theorem decodeWord_fetchedWord_of_decode {s : State} {i : Instr}
    (h : decode [s.readByte s.pc.toNat, s.readByte (s.pc.toNat + 1)] = .ok (i, [])) :
    decodeWord (fetchedWord s) = i := by
  rw [decode_pair, Except.ok.injEq, Prod.mk.injEq] at h
  obtain ⟨decoded, -⟩ := h
  exact decoded

/-- Settles O6: the step is the decoded handler on the latched state, whatever it answers. -/
theorem stepRunsTheDecodedInstruction : Obligations.StepRunsTheDecodedInstruction := by
  intro s i running fetchable hi
  rw [step_eq_finish running fetchable, decodeWord_fetchedWord_of_decode hi, latch_eq]
  show finish (exec i { s with opcode := s.readByte s.pc.toNat ++ s.readByte (s.pc.toNat + 1)
                               phase := .fetched, pc := s.pc + 2#16 }) = _
  cases exec i _ with
  | next t => exact congrArg Host.Outcome.next (endCycle_eq_ite t)
  | fault f => rfl
  | refused q => rfl

/-- Settles O7: the first two ways a step can go. -/
theorem cycleEntryChecks : Obligations.CycleEntryChecks := fun _ =>
  ⟨fun halted => step_eq_next.mpr (.inl ⟨halted, rfl⟩),
    fun running unfetchable => step_eq_next.mpr (.inr (.inl ⟨running, unfetchable, rfl⟩))⟩

/-- A step whose handler runs on without a fault. -/
theorem step_of_decoded {s u : State} {i : Instr} (running : s.phase ≠ .halted) (fetchable : s.pc.toNat ≤ 0xFFE)
    (hi : decodeWord (fetchedWord s) = i) (hu : exec i (latch (fetchedWord s) s) = .next u) (runs : u.phase ≠ .halted) :
    step s = .next (CompletedCycle u) := by
  subst hi
  rw [step_of_exec running fetchable hu, endCycle_eq_completedCycle runs]

/-- In a completed cycle `DT` counts one down, not below 0 (R106). -/
theorem completedCycle_dt_toNat (s : State) : (CompletedCycle s).dt.toNat = s.dt.toNat - 1 := by
  rw [← countDown_toNat, countDown_eq]
  rfl

/-- In a completed cycle `ST` counts one down, not below 0 (R106). -/
theorem completedCycle_st_toNat (s : State) : (CompletedCycle s).st.toNat = s.st.toNat - 1 := by
  rw [← countDown_toNat, countDown_eq]
  rfl

/-- Settles O9: each handler is one write, and the count down at the end of the cycle comes after it. -/
theorem timerWritesCountInTheirOwnCycle : Obligations.TimerWritesCountInTheirOwnCycle := by
  intro s x running fetchable
  have cycle {i : Instr} {u : State} (hi : decodeWord (fetchedWord s) = i) :=
    step_of_decoded (u := u) running fetchable hi
  refine ⟨fun hi => ⟨_, cycle hi rfl Phase.noConfusion, completedCycle_dt_toNat _, completedCycle_st_toNat _⟩,
    fun hi => ⟨_, cycle hi rfl Phase.noConfusion, completedCycle_st_toNat _, completedCycle_dt_toNat _⟩,
    fun hi => ⟨_, cycle hi rfl Phase.noConfusion, ?value, completedCycle_dt_toNat _⟩⟩
  case value => exact State.getV_setV_self (latch (fetchedWord s) s) x s.dt

/-- Only Fx15 may write `DT` (R29). -/
theorem eq_ldDTVx_of_mayWrite_dt {i : Instr} {s : State} (h : mayWrite i s .dt) : ∃ x, i = .ldDTVx x := by
  cases i <;> simp_all [mayWrite]

/-- A completed cycle that does not execute Fx15 takes `DT` one down, not below 0 (R106, R107). -/
theorem dt_of_quiet_step {s t : State} (hst : step s = .next t) (running : s.phase ≠ .halted)
    (noFault : t.phase ≠ .halted) (quiet : ∀ x, decodeWord (fetchedWord s) ≠ .ldDTVx x) :
    t.dt.toNat = s.dt.toNat - 1 := by
  obtain ⟨u, hu, runs, rfl⟩ := exec_of_step_completed hst running noFault
  have notWritten : ¬ mayWrite (decodeWord (fetchedWord s)) (latch (fetchedWord s) s) .dt := fun h =>
    (eq_ldDTVx_of_mayWrite_dt h).elim quiet
  have kept : u.dt = s.dt := exec_frame (.inr fun _ => Element.noConfusion) hu runs notWritten
  rw [endCycle_dt_toNat runs, kept]

/-- Settles O10: by induction over the cycles, each of which takes `DT` one down. -/
theorem delayTimerAfterQuietCycles : Obligations.DelayTimerAfterQuietCycles := by
  intro n s t cycles
  induction cycles with
  | none s => rfl
  | more active completes noFault quiet rest ih =>
    rw [ih, dt_of_quiet_step completes active noFault quiet]
    omega

/-- Settles O51: the handler takes `PC` back to where the fetch found it. -/
theorem waitingCycleRefetches : Obligations.WaitingCycleRefetches := by
  intro s x running fetchable hi noKey
  have rewound : rewindPc (latch (fetchedWord s) s) = { s with opcode := fetchedWord s, phase := .fetched } := by
    simp [latch_eq, rewindPc_eq, State.setPc]
  have hu : exec (.ldVxK x) (latch (fetchedWord s) s) = .next { s with opcode := fetchedWord s, phase := .fetched } :=
    rewound ▸ execLdVxK_of_none x (s := latch (fetchedWord s) s) noKey
  exact (step_of_decoded running fetchable hi hu Phase.noConfusion).trans rfl

/-- Settles O53: the jump's target is the `PC` the cycle started from, and the word there stays. -/
theorem parkedProgramStaysParked : Obligations.ParkedProgramStaysParked := by
  intro s parked
  obtain ⟨idle, fetchable, nnn, hi, target⟩ := parked
  have running : s.phase ≠ .halted := by rw [idle]; exact Phase.noConfusion
  have back : addr16 nnn = s.pc := BitVec.eq_of_toNat_eq ((addr16_toNat nnn).trans target)
  have hu : exec (.jp nnn) (latch (fetchedWord s) s) = .next { s with opcode := fetchedWord s, phase := .fetched } := by
    show Host.Outcome.next ((latch (fetchedWord s) s).setPc (addr16 nnn)) = _
    rw [back]
    rfl
  exact ⟨(step_of_decoded running fetchable hi hu Phase.noConfusion).trans rfl, rfl, fetchable, nnn, hi, target⟩

end Sys2Proof.Machine
